-- ==== Sys2Proof/Word.lean ====
section
/-! DEFINITION. The byte, the only fixed-width word of the block (spec/00_scope.md R6). -/

namespace Sys2Proof

/-- A byte: 8 bits, an unsigned value 0 to 255; bit 0 is the least significant (R6, R32). -/
abbrev Byte := BitVec 8

end Sys2Proof
end

