-- ==== Sys2Proof/Syntax.lean ====
section
/-! DEFINITION. The commands of the block (the rows of spec/opcode_table.json) and the accesses a host can make
(spec/30_encoding.md R61, spec/70_reset_and_hazards.md R152). -/

namespace Sys2Proof

/-- The two commands. Neither carries an operand: every operand is implicit (R54). -/
inductive Instr where
  /-- ENCODE, CMD8 with `opc` = 0x01 (R51). -/
  | encode
  /-- DECODE, CMD8 with `opc` = 0x02 (R52). -/
  | decode
  deriving DecidableEq, Repr

/-- The three byte memories (R30). REG is the fourth space; it is reached by register accesses only. -/
inductive Space where
  | pix
  | msg
  | out
  deriving DecidableEq, Repr

/-- One access of the host between commands (R61, R152). -/
inductive HostAccess where
  /-- Write the value `v` to register index `i` of space REG. A write to index 0 (CMD) starts a command (R11). -/
  | writeReg (i v : Nat)
  /-- Read register index `i` of space REG. -/
  | readReg (i : Nat)
  /-- Write the byte `v` at index `a` of a byte memory. -/
  | writeByte (sp : Space) (a : Nat) (v : Byte)
  /-- Read the byte at index `a` of a byte memory. -/
  | readByte (sp : Space) (a : Nat)
  /-- The platform's reset (R140). -/
  | reset
  deriving DecidableEq, Repr

end Sys2Proof
end

