-- ==== Sys2Proof/Decode.lean ====
section
/-! DEFINITION. The command decoder and encoder: format CMD8 of spec/30_encoding.md section 1. -/

namespace Sys2Proof

/-- Why a value written to CMD names no command (R53). -/
inductive DecodeError where
  /-- A bit above bit 7 is set. -/
  | bitsAboveOpcode (v : Nat)
  /-- The upper bits are 0 and the code is neither 0x01 nor 0x02. -/
  | reservedCode (opc : Nat)
  deriving DecidableEq, Repr

/-- Field `opc`, bits 7:0 of the written value (R50). -/
def opcField (v : Nat) : Nat := v % 256

/-- The bits above bit 7, which must be 0 (R50). -/
def upperBits (v : Nat) : Nat := v / 256

/-- The command a value written to CMD stands for. The whole written value decides (R50 to R53). -/
def decodeWord (v : Nat) : Except DecodeError Instr :=
  if upperBits v ≠ 0 then .error (.bitsAboveOpcode v)
  else if opcField v = 0x01 then .ok .encode
  else if opcField v = 0x02 then .ok .decode
  else .error (.reservedCode (opcField v))

/-- The value the host writes to CMD to start a command (R51, R52). -/
def encodeWord : Instr → Nat
  | .encode => 0x01
  | .decode => 0x02

/-- The command read from a table row's `nbits` bits `w`: the value written to CMD is those bits, every bit above
them 0. -/
def decodeTableWord (nbits w : Nat) : Option Instr :=
  match decodeWord (w % 2 ^ nbits) with
  | .ok i => some i
  | .error _ => none

end Sys2Proof
end

