-- ==== Sys2Proof/Config.lean ====
section
/-! DEFINITION. What an implementation fixes (the four parameters of spec/00_scope.md R5) and the free values. -/

namespace Sys2Proof

/-- The implementation parameters of R5, all natural numbers. The spec leaves them OPEN; the machine carries them
as plain data, so a claim about every state is a claim about every choice of them (log 4). -/
structure Config where
  /-- `LEN_W`: bits in PIX_LEN, MSG_LEN and OUT_LEN. -/
  lenW : Nat
  /-- `PIX_MAX`: bytes of pixel memory. -/
  pixMax : Nat
  /-- `MSG_MAX`: bytes of message memory. -/
  msgMax : Nat
  /-- `OUT_MAX`: bytes of output text memory. -/
  outMax : Nat
  deriving DecidableEq, Repr

/-- DESIGN CHOICE (log 1, safe): the free values. `Config.freeByte n` is what the `n`-th read of a byte not written
since reset returns: "reads an unspecified value", and two reads of one such byte need not agree
(spec/70_reset_and_hazards.md R145; spec/93_implementation_defined.md U5). It has no body. -/
opaque Config.freeByte : Nat → Byte

end Sys2Proof
end

