-- ==== Sys2Proof/Machine/Params.lean ====
section
/-! DEFINITION. The parameter values the reset state carries. -/

namespace Sys2Proof.Machine

/-- DESIGN CHOICE (log 4): R5 leaves the parameters OPEN; the reset state carries those that
spec/95_test_vectors.md section 3 fixes for its host programs (`LEN_W` = 32 is also R5's suggested value). -/
def resetConfig : Config := { lenW := 32, pixMax := 40000, msgMax := 64, outMax := 3744 }

end Sys2Proof.Machine
end

