-- ==== Sys2Proof/Machine/State.lean ====
section
/-! DEFINITION. The state of the block (spec/10_state.md R10), the reasons a step can stop, and the state after
reset (R27). -/

namespace Sys2Proof.Machine

/-- STATUS.OP, bits 5:4 of STATUS (R12). -/
inductive StatusOp where
  /-- NONE: no command since reset. -/
  | noCommand
  /-- ENCODE. -/
  | encode
  /-- DECODE. -/
  | decode
  /-- ILLEGAL: a reserved command code was written. -/
  | illegal
  deriving DecidableEq, Repr

/-- The four error kinds (spec/60_exceptions.md R120). -/
inductive ErrorKind where
  | invalidInput
  | emptyMessage
  | capacityExceeded
  | noHiddenMessage
  deriving DecidableEq, Repr

/-- STATUS.CODE, bits 2:0 of STATUS: OK or an error kind. The values 5, 6 and 7 are never produced (R12, U4). -/
inductive StatusCode where
  | ok
  | error (e : ErrorKind)
  deriving DecidableEq, Repr

/-- The STATUS register: its two fields. Every other bit reads 0 (R12). -/
structure Status where
  op : StatusOp
  code : StatusCode
  deriving DecidableEq, Repr

/-- A byte memory: the bytes written since reset, by index, in strictly rising order. An index that is not listed
holds no value (R27, R145). -/
abbrev Memory := List Host.Cell

/-- Why the machine stops with a fault. -/
inductive Fault where
  /-- Raised by DECODE's Deliver when the text is longer than OUT: index `OUT_MAX` of OUT does not exist. Safe. With
  parameters that meet R5 it never happens (`OUT_MAX >= MaxText(PIX_MAX)`, R108; log 11). -/
  | outputOverflow
  deriving DecidableEq, Repr

/-- Why a step gives an access no meaning. -/
inductive Refusal where
  /-- Raised by an arm of `exec` for a command that has no meaning yet (none is left). Safe. -/
  | notModelled (mnemonic : String)
  /-- Raised by a host read or write of REG index 5 or above, which "the host must not access" (R26, U7). Safe. -/
  | reservedRegister (i : Nat)
  /-- Raised by a host read or write of a memory index at or beyond the memory's size (R37, U7). Safe. -/
  | outsideSpace (sp : Space) (a : Nat)
  /-- Raised by a host write to a length register of a value that does not fit `LEN_W` bits, which "cannot be
  presented to the register" (R13, R14). Safe. -/
  | valueTooWide (i v : Nat)
  deriving DecidableEq, Repr

/-- The complete state of one block (R10), the parameters it carries, and three fields of the model's own. CMD is "a
trigger, not storage" and has no field (R11). -/
structure State where
  /-- The parameters of R5. No step changes them. -/
  cfg : Config
  /-- STATUS (R12). -/
  status : Status
  /-- PIX_LEN: the byte length of the pixel buffer (R13). -/
  pixLen : Nat
  /-- MSG_LEN: the byte length of the message (R14). -/
  msgLen : Nat
  /-- OUT_LEN: the byte length of the recovered text (R15). -/
  outLen : Nat
  /-- PIX: the pixel buffer (R16). -/
  pix : Memory
  /-- MSG: the message (R17). -/
  msg : Memory
  /-- OUT: the recovered text (R18). -/
  out : Memory
  /-- K: the channel cursor (R20). -/
  k : Nat
  /-- ACC: the bit accumulator (R21). -/
  acc : Byte
  /-- CLEN: the length of the candidate string (R22). -/
  clen : Nat
  /-- MOK: the candidate string matches the Marker so far (R23). -/
  mok : Bool
  /-- The model's own (log 2): the accesses the host will make, the next one first. -/
  script : List HostAccess
  /-- The model's own (log 3): the values the host's reads have returned, the oldest first. -/
  answers : List Nat
  /-- The model's own (log 1): how many free values reads of unwritten bytes have drawn. -/
  freeReads : Nat
  deriving DecidableEq, Repr

/-- The machine right after reset with parameters `c`: the values of R27; the memories hold no value. K, ACC, CLEN and
MOK are unspecified there: DESIGN CHOICE zero (log 5). -/
def State.resetWith (c : Config) : State where
  cfg := c
  status := { op := .noCommand, code := .ok }
  pixLen := 0
  msgLen := 0
  outLen := 0
  pix := []
  msg := []
  out := []
  k := 0
  acc := 0
  clen := 0
  mok := false
  script := []
  answers := []
  freeReads := 0

/-- The machine right after reset (R27). -/
def State.reset : State := State.resetWith resetConfig

end Sys2Proof.Machine
end

