-- ==== Sys2Proof/Machine/Flags.lean ====
section
/-! DEFINITION. The STATUS word, the only status a command leaves (spec/10_state.md R12, R25): the numbers of its
fields and the values a host can read (spec/30_encoding.md R55). There are no condition codes (R25). -/

namespace Sys2Proof.Machine

/-- The number of an error kind in STATUS.CODE (R120). -/
def ErrorKind.number : ErrorKind → Nat
  | .invalidInput => 1
  | .emptyMessage => 2
  | .capacityExceeded => 3
  | .noHiddenMessage => 4

/-- STATUS.CODE as a number; 0 is OK (R12). -/
def StatusCode.number : StatusCode → Nat
  | .ok => 0
  | .error e => e.number

/-- STATUS.OP as a number (R12). -/
def StatusOp.number : StatusOp → Nat
  | .noCommand => 0
  | .encode => 1
  | .decode => 2
  | .illegal => 3

/-- The 6-bit STATUS word: CODE in bits 2:0, bit 3 zero, OP in bits 5:4 (R12, R55). -/
def Status.word (st : Status) : BitVec 6 :=
  BitVec.ofNat 2 st.op.number ++ (0 : BitVec 1) ++ BitVec.ofNat 3 st.code.number

/-- The code of a command in STATUS.OP (R126). -/
def opOf : Instr → StatusOp
  | .encode => .encode
  | .decode => .decode

/-- The nine STATUS values that are ever produced (R55). -/
def legalStatusWords : List (BitVec 6) := [0x00, 0x10, 0x11, 0x12, 0x13, 0x20, 0x21, 0x24, 0x31]

/-- STATUS holds one of the nine values of R55. -/
abbrev Status.Legal (st : Status) : Prop := st.word ∈ legalStatusWords

end Sys2Proof.Machine
end

