-- ==== Sys2Proof/Machine/Operands.lean ====
section
/-! DEFINITION. The quantities commands compute from their implicit operands (spec/30_encoding.md R54): pixel count,
frame length, channel address, capacities. Exact natural arithmetic throughout (spec/00_scope.md R6). -/

namespace Sys2Proof.Machine

/-- The number of pixels `P` of a buffer of `n` bytes, `n / 4` (R31). -/
def pixelCount (n : Nat) : Nat := n / 4

/-- `FrameLen(L) = 6 + L + 1`, the bytes of a frame: six of the Marker, one Terminator, `L` of the message (R70). -/
def frameLen (l : Nat) : Nat := 6 + 1 + l

/-- `NBITS(L) = 8 * FrameLen(L)`, the bits of a frame (R72). -/
def nbits (l : Nat) : Nat := 8 * frameLen l

/-- `ChanAddr(k)`: the PIX index of usable channel `k` (R35). -/
def chanAddr (k : Nat) : Nat := 4 * (k / 3) + k % 3

/-- `CapBits(P)`: the usable channels of `P` pixels (R83). -/
def capBits (p : Nat) : Nat := 3 * p

/-- `CapBytes(P)`: the whole bytes they carry (R83). -/
def capBytes (p : Nat) : Nat := capBits p / 8

/-- `MaxMsg(P)`: the longest message that fits `P` pixels, none when fewer than eight frame bytes fit (R83). -/
def maxMsg (p : Nat) : Option Nat := if 8 ≤ capBytes p then some (capBytes p - 7) else none

/-- `MaxText(n)`: the longest text a DECODE of an `n`-byte buffer can return (R5, R108). -/
def maxText (n : Nat) : Nat := capBytes (pixelCount n) - 6

end Sys2Proof.Machine
end

