-- ==== Sys2Proof/WellFormed.lean ====
section
/-! DEFINITION. Which parameters, commands and host accesses are well formed. -/

namespace Sys2Proof

/-- The constraints of spec/00_scope.md R5 on the parameters (with `MSG_MAX` at least 1, as its table says). -/
abbrev Config.Wf (c : Config) : Prop :=
  1 ≤ c.lenW ∧ c.pixMax < 2 ^ c.lenW ∧ c.msgMax < 2 ^ c.lenW ∧ c.outMax < 2 ^ c.lenW ∧ 1 ≤ c.msgMax ∧
    Machine.maxText c.pixMax ≤ c.outMax

/-- The number of bytes of a memory (R16 to R18). -/
def Config.size (c : Config) : Space → Nat
  | .pix => c.pixMax
  | .msg => c.msgMax
  | .out => c.outMax

/-- A command has no operand that could be ill formed (R54). -/
def Instr.wf : Instr → Bool
  | .encode => true
  | .decode => true

/-- What a host can present: a register index of R11 to R15, a value that fits a length register (R13, R14), an index
inside its memory (R37). CMD takes any value (R53, R61); a write to a read-only register is legal and ignored. -/
def HostAccess.wf (c : Config) : HostAccess → Bool
  | .writeReg i v => decide (i ≤ 4) && (decide (i ≠ 2 ∧ i ≠ 3) || decide (v < 2 ^ c.lenW))
  | .readReg i => decide (i ≤ 4)
  | .writeByte sp a _ => decide (a < c.size sp)
  | .readByte sp a => decide (a < c.size sp)
  | .reset => true

end Sys2Proof
end

