-- ==== Sys2Proof/Machine/Ops.lean ====
section
/-! DEFINITION. The named operations over memory and registers: one byte read, one byte written
(spec/20_memory.md R33), ending a command with an error (spec/60_exceptions.md R126) or with success. -/

namespace Sys2Proof.Machine

/-- The byte a memory holds at an index; none where nothing has written one since reset. -/
def Memory.read : Memory → Nat → Option Byte
  | [], _ => none
  | (b, v) :: m, a => if a = b then some v else Memory.read m a

/-- Store a byte at an index, keeping the indices in rising order. -/
def Memory.write : Memory → Nat → Byte → Memory
  | [], a, v => [(a, v)]
  | (b, w) :: m, a, v =>
    if a < b then (a, v) :: (b, w) :: m
    else if a = b then (a, v) :: m
    else (b, w) :: Memory.write m a v

/-- The canonical form: indices strictly rising. An unlisted index holds no value, so no entry can equal what an
unlisted index reads as. -/
abbrev Memory.Wf (m : Memory) : Prop := m.Pairwise (fun c d => c.1 < d.1)

/-- Every byte stands inside a memory of `n` bytes. -/
abbrev Memory.Within (m : Memory) (n : Nat) : Prop := ∀ c ∈ m, c.1 < n

/-- The memory that is space `sp`. -/
def State.mem (s : State) : Space → Memory
  | .pix => s.pix
  | .msg => s.msg
  | .out => s.out

/-- `MemRead(sp, a, 1)`: the byte and the state after the read. A byte not written since reset reads as the next free
value (R145, U5; log 1); nothing else changes (R33). -/
def readByte (sp : Space) (a : Nat) (s : State) : Byte × State :=
  match (s.mem sp).read a with
  | some v => (v, s)
  | none => (Config.freeByte s.freeReads, { s with freeReads := s.freeReads + 1 })

/-- `MemWrite(sp, a, 1, v)` (R33). -/
def writeByte (sp : Space) (a : Nat) (v : Byte) (s : State) : State :=
  match sp with
  | .pix => { s with pix := s.pix.write a v }
  | .msg => { s with msg := s.msg.write a v }
  | .out => { s with out := s.out.write a v }

/-- Store a sequence of bytes at consecutive indices of OUT from `a` on, in order (the loop of R106). -/
def writeText : Nat → List Byte → State → State
  | _, [], s => s
  | a, v :: vs, s => writeText (a + 1) vs (writeByte .out a v s)

/-- Write both fields of STATUS. -/
def setStatus (op : StatusOp) (code : StatusCode) (s : State) : State :=
  { s with status := { op := op, code := code } }

/-- `raise E()` inside command `c`: STATUS gets the codes of the command and of the error, a DECODE also clears
OUT_LEN, and the command ends. Nothing else changes and nothing is saved (R126, R107, R127). -/
def raise (c : Instr) (e : ErrorKind) (s : State) : State :=
  match c with
  | .encode => setStatus .encode (.error e) s
  | .decode => setStatus .decode (.error e) { s with outLen := 0 }

/-- Append a value to what the host's reads have returned (log 3). -/
def answer (n : Nat) (s : State) : State := { s with answers := s.answers ++ [n] }

end Sys2Proof.Machine
end

