-- ==== Sys2Proof/Machine/FrameBuilder.lean ====
section
/-! DEFINITION. The Frame Builder (spec/40_frame_builder.md): the frame of a message, its bits, and the bits produced
on the fly from MSG as ENCODE consumes them. -/

namespace Sys2Proof.Machine

/-- The Marker, ASCII "STEGO:" (R57). -/
def marker : List Byte := [0x53, 0x54, 0x45, 0x47, 0x4F, 0x3A]

/-- The Terminator, one zero byte (R58). -/
def terminator : Byte := 0x00

/-- `Frame(M) = Marker ++ M ++ [0x00]` (R70). -/
def frame (m : List Byte) : List Byte := marker ++ m ++ [terminator]

/-- Bit `i` of `ByteBits(v)`: the bits of a byte most-significant first (R71, D6; log 13). -/
def msbBit (v : Byte) (i : Nat) : Bool := v.getLsbD (7 - i)

/-- `ByteBits(v)` (R71). -/
def byteBits (v : Byte) : List Bool :=
  [msbBit v 0, msbBit v 1, msbBit v 2, msbBit v 3, msbBit v 4, msbBit v 5, msbBit v 6, msbBit v 7]

/-- `FrameBits(M)`: the bits of the frame's bytes, in order (R72). -/
def frameBits (m : List Byte) : List Bool := (frame m).flatMap byteBits

/-- `FrameBit(M, k)`, for `k < NBITS(len M)` (R73). -/
def frameBit (m : List Byte) (k : Nat) : Bool := msbBit ((frame m).getD (k / 8) terminator) (k % 8)

/-- Frame byte `j` as the machine produces it: a Marker byte, a byte read from MSG, or the Terminator (R73). -/
def readFrameByte (j : Nat) (s : State) : Byte × State :=
  if j < 6 then (marker.getD j terminator, s)
  else if j < 6 + s.msgLen then readByte .msg (j - 6) s
  else (terminator, s)

/-- Frame bit `k` as the machine produces it. "It need not store the frame" (R73): the frame byte is read again for
each of its bits (log 1). -/
def readFrameBit (k : Nat) (s : State) : Bool × State :=
  let r := readFrameByte (k / 8) s
  (msbBit r.1 (k % 8), r.2)

end Sys2Proof.Machine
end

