-- ==== Sys2Proof/Machine/Decoder.lean ====
section
/-! DEFINITION. The DECODE command (spec/42_decoder.md): validation, bit-unpacker with terminator detector, marker
validator, delivery. -/

namespace Sys2Proof.Machine

/-- The conditions under which `DecValidate()` passes (R101). MSG_LEN is no operand of DECODE. -/
def decValid (s : State) : Bool := decide (s.pixLen % 4 = 0) && decide (s.pixLen ≤ s.cfg.pixMax)

/-- The working registers at the start of DECODE (R100). -/
def decodeStart (s : State) : State := { s with k := 0, acc := 0, clen := 0, mok := true }

/-- Shift a channel byte's bit 0 into ACC from the right: `((ACC << 1) | b) & 0xFF` (R102, R21). -/
def shiftBit (acc v : Byte) : Byte := (acc <<< 1) ||| (v &&& 1)

/-- Read the channel at K, shift its bit 0 into ACC, advance K (R102). -/
def unpackRead (s : State) : State :=
  let v := readByte .pix (chanAddr s.k) s
  { v.2 with acc := shiftBit v.2.acc v.1, k := v.2.k + 1 }

/-- The candidate byte with index `j` does not break the Marker: it equals `Marker[j]` or comes after it (R23). -/
def matchesMarker (j : Nat) (v : Byte) : Bool := decide (6 ≤ j) || decide (marker.getD j terminator = v)

/-- Count the completed byte in ACC into the candidate string: CLEN, MOK, and ACC cleared for the next group
(R102, R21 to R23). -/
def keepByte (s : State) : State :=
  { s with clen := s.clen + 1, mok := s.mok && matchesMarker s.clen s.acc, acc := 0 }

/-- `n` iterations of the loop of `Unpack()`, with the candidate string `c` collected so far. A completed group of
eight bits that is zero ends it (R102 to R104). -/
def unpackSteps : Nat → List Byte → State → List Byte × State
  | 0, c, s => (c, s)
  | n + 1, c, s =>
    let t := unpackRead s
    if t.k % 8 = 0 then
      if t.acc = 0 then (c, t)
      else unpackSteps n (c ++ [t.acc]) (keepByte t)
    else unpackSteps n c t

/-- `Unpack()`: at most one iteration for each usable channel (R102). -/
def unpack (s : State) : List Byte × State := unpackSteps (capBits (pixelCount s.pixLen)) [] s

/-- `MarkerCheck(C)` passes: at least six bytes, and the first six are the Marker (R105). -/
def markerOk (c : List Byte) : Bool := decide (6 ≤ c.length) && decide (c.take 6 = marker)

/-- The successful end of DECODE with a text of `n` bytes in OUT: OUT_LEN and STATUS 0x20 (R106). -/
def decodeDone (n : Nat) (s : State) : State := setStatus .decode .ok { s with outLen := n }

/-- `Deliver(C)`: the bytes after the Marker to OUT, their number to OUT_LEN (R106). An index of OUT that does not
exist faults; R5 rules it out (log 11). -/
def deliver (c : List Byte) (s : State) : Host.Outcome State Fault Refusal :=
  let text := c.drop 6
  if text.length ≤ s.cfg.outMax then .next (decodeDone text.length (writeText 0 text s))
  else .fault .outputOverflow

/-- DECODE (R100). -/
def execDecode (s : State) : Host.Outcome State Fault Refusal :=
  let s0 := decodeStart s
  if decValid s0 then
    let r := unpack s0
    if markerOk r.1 then deliver r.1 r.2
    else .next (raise .decode .noHiddenMessage r.2)
  else .next (raise .decode .invalidInput s0)

end Sys2Proof.Machine
end

