-- ==== Sys2Proof/Machine/Encoder.lean ====
section
/-! DEFINITION. The ENCODE command (spec/41_encoder.md): validation, capacity checker, bit-packer. -/

namespace Sys2Proof.Machine

/-- The conditions under which `EncValidate()` passes (R81). -/
def encValid (s : State) : Bool :=
  decide (s.pixLen % 4 = 0) && decide (s.pixLen ≤ s.cfg.pixMax) && decide (s.msgLen ≤ s.cfg.msgMax)

/-- `CapacityCheck()` passes: the frame fits the usable channels, inclusive (R84). -/
def frameFits (s : State) : Bool := decide (nbits s.msgLen ≤ capBits (pixelCount s.pixLen))

/-- The error ENCODE ends with, if any: the first that holds of InvalidInput, EmptyMessage, CapacityExceeded
(R80, R125). -/
def encodeCheck (s : State) : Option ErrorKind :=
  if !encValid s then some .invalidInput
  else if s.msgLen = 0 then some .emptyMessage
  else if !frameFits s then some .capacityExceeded
  else none

/-- Put a frame bit into bit 0 of a channel byte, `(v & 0xFE) | b` (R85). -/
def packBit (v : Byte) (b : Bool) : Byte := (v &&& 0xFE) ||| (if b then 1 else 0)

/-- One pack step, the body of the loop of R85 for `k = K`: read the channel byte, take the frame bit, write the byte
back, advance K. -/
def packStep (s : State) : State :=
  let a := chanAddr s.k
  let v := readByte .pix a s
  let b := readFrameBit s.k v.2
  let t := writeByte .pix a (packBit v.1 b.1) b.2
  { t with k := s.k + 1 }

/-- `n` pack steps (R85, R91). -/
def packSteps : Nat → State → State
  | 0, s => s
  | n + 1, s => packSteps n (packStep s)

/-- `Pack()`: one step for each frame bit (R85). -/
def pack (s : State) : State := packSteps (nbits s.msgLen) s

/-- The channel cursor at the start of ENCODE (R80). -/
def encodeStart (s : State) : State := { s with k := 0 }

/-- The successful end of ENCODE, STATUS 0x10 (R87). -/
def encodeDone (s : State) : State := setStatus .encode .ok s

/-- ENCODE (R80): K cleared, the three checks, then the packing, which cannot fail. -/
def execEncode (s : State) : Host.Outcome State Fault Refusal :=
  let s0 := encodeStart s
  match encodeCheck s0 with
  | some e => .next (raise .encode e s0)
  | none => .next (encodeDone (pack s0))

end Sys2Proof.Machine
end

