-- ==== Sys2Proof/Machine/HostPort.lean ====
section
/-! DEFINITION. What the host's accesses do (spec/30_encoding.md R61, spec/70_reset_and_hazards.md R152): registers,
memories, commands, reset. -/

namespace Sys2Proof.Machine

/-- A reserved value written to CMD: STATUS 0x31 and nothing else (R53). -/
def execReserved (s : State) : Host.Outcome State Fault Refusal :=
  .next (setStatus .illegal (.error .invalidInput) s)

/-- A write of `v` to CMD: the command it stands for runs to its end as one step (R11, R147). -/
def runCommand (v : Nat) (s : State) : Host.Outcome State Fault Refusal :=
  match decodeWord v with
  | .ok i => exec i s
  | .error _ => execReserved s

/-- Host write of a length register: `LEN_W` bits; a larger number cannot be presented (R13, R14; log 10). -/
def writeLength (i v : Nat) (s t : State) : Host.Outcome State Fault Refusal :=
  if v < 2 ^ s.cfg.lenW then .next t else .refused (.valueTooWide i v)

/-- Host write of register index `i` (R11 to R15, R26). STATUS and OUT_LEN ignore it. -/
def writeReg (i v : Nat) (s : State) : Host.Outcome State Fault Refusal :=
  match i with
  | 0 => runCommand v s
  | 1 => .next s
  | 2 => writeLength 2 v s { s with pixLen := v }
  | 3 => writeLength 3 v s { s with msgLen := v }
  | 4 => .next s
  | i => .refused (.reservedRegister i)

/-- The value register index `i` reads as; none for a reserved index. CMD reads 0 (R11 to R15, R26). -/
def regValue (i : Nat) (s : State) : Option Nat :=
  match i with
  | 0 => some 0
  | 1 => some s.status.word.toNat
  | 2 => some s.pixLen
  | 3 => some s.msgLen
  | 4 => some s.outLen
  | _ => none

/-- Host read of register index `i`: the value is returned, nothing else changes (R33). -/
def readReg (i : Nat) (s : State) : Host.Outcome State Fault Refusal :=
  match regValue i s with
  | some n => .next (answer n s)
  | none => .refused (.reservedRegister i)

/-- Host write of one byte. OUT ignores it (R16 to R18); an index outside the memory is refused (R37, U7; log 9). -/
def hostWriteByte (sp : Space) (a : Nat) (v : Byte) (s : State) : Host.Outcome State Fault Refusal :=
  if a < s.cfg.size sp then
    match sp with
    | .pix => .next (writeByte .pix a v s)
    | .msg => .next (writeByte .msg a v s)
    | .out => .next s
  else .refused (.outsideSpace sp a)

/-- Host read of one byte (R16 to R18, R33); an index outside the memory is refused (R37, U7; log 9). -/
def hostReadByte (sp : Space) (a : Nat) (s : State) : Host.Outcome State Fault Refusal :=
  if a < s.cfg.size sp then
    let r := readByte sp a s
    .next (answer r.1.toNat r.2)
  else .refused (.outsideSpace sp a)

/-- Reset (R140): every register takes its value of R27, and every byte of PIX, MSG and OUT is unspecified until it is
written again (R27, R145): it holds no value, and a read of it draws a free value. R140 has the block write no byte, so
the old value is one that a read may give; R27 promises none (log 1). What the model holds for the host is not the
block's and stays. -/
def resetEvent (s : State) : State :=
  { State.resetWith s.cfg with script := s.script, answers := s.answers, freeReads := s.freeReads }

/-- What one access of the host does (R61, R152). -/
def hostAccess (a : HostAccess) (s : State) : Host.Outcome State Fault Refusal :=
  match a with
  | .writeReg i v => writeReg i v s
  | .readReg i => readReg i s
  | .writeByte sp a v => hostWriteByte sp a v s
  | .readByte sp a => hostReadByte sp a s
  | .reset => .next (resetEvent s)

/-- Between commands, with no access to make, the block is idle and holds its state (R133, R143). -/
def idle (s : State) : Host.Outcome State Fault Refusal := .next s

end Sys2Proof.Machine
end

