-- ==== Sys2Proof/Machine/Step.lean ====
section
/-! DEFINITION. One step of the machine: the host's next access, the command it starts included (spec/20_memory.md R38,
spec/70_reset_and_hazards.md R147). -/

namespace Sys2Proof.Machine

/-- One step: the first pending access of the host is made; with none pending the block is idle (R133, R143). -/
def step (s : State) : Host.Outcome State Fault Refusal :=
  match s.script with
  | [] => idle s
  | a :: rest => hostAccess a { s with script := rest }

/-- The state in which the host's next access is the CMD write of a table row's `nbits` bits `w` (log 2): the block
fetches nothing (R20), a command is one value written to CMD (R50). -/
def State.withFetchWord (s : State) (nbits w : Nat) : State :=
  { s with script := .writeReg 0 (w % 2 ^ nbits) :: s.script }

end Sys2Proof.Machine
end

