-- ==== Sys2Proof/Machine/HostNotation.lean ====
section
/-! DEFINITION. The host's script lines and pseudo-operations (spec/30_encoding.md R61, R62), each as the accesses it
stands for, and the host's conversion of a text to message bytes (spec/00_scope.md R7). -/

namespace Sys2Proof.Machine

/-- `WR PIX_LEN, n` (R61). -/
def lineWrPixLen (n : Nat) : HostAccess := .writeReg 2 n

/-- `WR MSG_LEN, n` (R61). -/
def lineWrMsgLen (n : Nat) : HostAccess := .writeReg 3 n

/-- `WR PIX[a], v` (R61). -/
def lineWrPix (a : Nat) (v : Byte) : HostAccess := .writeByte .pix a v

/-- `WR MSG[a], v` (R61). -/
def lineWrMsg (a : Nat) (v : Byte) : HostAccess := .writeByte .msg a v

/-- `CMD v` (R61). -/
def lineCmd (v : Nat) : HostAccess := .writeReg 0 v

/-- `ENCODE` (R61). -/
def lineEncode : HostAccess := lineCmd (encodeWord .encode)

/-- `DECODE` (R61). -/
def lineDecode : HostAccess := lineCmd (encodeWord .decode)

/-- `RD STATUS` (R61). -/
def lineRdStatus : HostAccess := .readReg 1

/-- `RD PIX_LEN` (R61). -/
def lineRdPixLen : HostAccess := .readReg 2

/-- `RD MSG_LEN` (R61). -/
def lineRdMsgLen : HostAccess := .readReg 3

/-- `RD OUT_LEN` (R61). -/
def lineRdOutLen : HostAccess := .readReg 4

/-- `RD PIX[a]`, `RD MSG[a]`, `RD OUT[a]` (R61). -/
def lineRd (sp : Space) (a : Nat) : HostAccess := .readByte sp a

/-- Writes of consecutive bytes of a memory from index `a` on. -/
def writeBytes (sp : Space) : Nat → List Byte → List HostAccess
  | _, [] => []
  | a, v :: vs => .writeByte sp a v :: writeBytes sp (a + 1) vs

/-- `LOADPIX b0 b1 ...` (R62). -/
def loadPix (bs : List Byte) : List HostAccess := writeBytes .pix 0 bs ++ [lineWrPixLen bs.length]

/-- `FILLPIX n, r g b a`, `n` a multiple of 4 (R62). -/
def fillPix (n : Nat) (r g b a : Byte) : List HostAccess :=
  (List.range (n / 4)).flatMap
      (fun p => [lineWrPix (4 * p) r, lineWrPix (4 * p + 1) g, lineWrPix (4 * p + 2) b, lineWrPix (4 * p + 3) a]) ++
    [lineWrPixLen n]

/-- `LOADMSG b0 b1 ...` (R62). -/
def loadMsg (bs : List Byte) : List HostAccess := writeBytes .msg 0 bs ++ [lineWrMsgLen bs.length]

/-- The message bytes of a text, one byte per character, the byte being its code point; none when a code point is above
255: "the host must refuse such a string" (R7, U1). -/
def textBytes : List Char → Option (List Byte)
  | [] => some []
  | c :: cs =>
    if c.toNat ≤ 255 then (textBytes cs).map (fun bs => BitVec.ofNat 8 c.toNat :: bs) else none

/-- `LOADMSG "text"` (R62); none when the host refuses the text (R7). -/
def loadText (text : String) : Option (List HostAccess) := (textBytes text.toList).map loadMsg

/-- The reads of the first `n` bytes of a memory. -/
def readBytes (sp : Space) (n : Nat) : List HostAccess := (List.range n).map (fun a => lineRd sp a)

/-- `READTEXT` at a state whose OUT_LEN reads as `n` (R62): the number of reads is what the first read gives. -/
def readText (s : State) : List HostAccess := lineRdOutLen :: readBytes .out s.outLen

/-- `READPIX` at a state whose PIX_LEN reads as `n` (R62). -/
def readPix (s : State) : List HostAccess := lineRdPixLen :: readBytes .pix s.pixLen

end Sys2Proof.Machine
end

