-- ==== Sys2Proof/Machine/StepLevel.lean ====
section
/-! DEFINITION. The step-level descriptions of the two commands (spec/41_encoder.md R91, spec/42_decoder.md R113): a
check step, work steps, a completion step. They refine the atomic meanings, which no host can tell from them (R147). -/

namespace Sys2Proof.Machine

/-- Where a step-level command stands. -/
inductive Phase where
  /-- Before the check step. -/
  | check
  /-- In the pack or unpack steps. -/
  | work
  /-- Before the completion step. -/
  | complete
  /-- The command has ended. -/
  | done
  deriving DecidableEq, Repr

/-- A command in progress: its phase and the block's state. -/
structure Micro where
  phase : Phase
  state : State
  deriving DecidableEq, Repr

/-- `n` micro steps. -/
def microRun (f : Micro → Micro) : Nat → Micro → Micro
  | 0, m => m
  | n + 1, m => microRun f n (f m)

/-- One micro step of ENCODE (R91): the check step, which alone can fail; then one pack step for each frame bit; then
the status write. -/
def encodeMicro (m : Micro) : Micro :=
  let s := m.state
  match m.phase with
  | .check =>
    match encodeCheck (encodeStart s) with
    | some e => { phase := .done, state := raise .encode e (encodeStart s) }
    | none => { phase := .work, state := encodeStart s }
  | .work =>
    { phase := if s.k + 1 < nbits s.msgLen then .work else .complete, state := packStep s }
  | .complete => { phase := .done, state := encodeDone s }
  | .done => m

/-- The write to OUT that R113 adds: a non-zero byte that completes after a matched Marker goes at once to
`OUT[CLEN - 6]`. -/
def writeThrough (s : State) : State :=
  if 6 ≤ s.clen ∧ s.mok then writeByte .out (s.clen - 6) s.acc s else s

/-- The completion step of DECODE: the marker check on CLEN and MOK, then the result (R113, R105). -/
def decodeComplete (s : State) : State :=
  if 6 ≤ s.clen ∧ s.mok then decodeDone (s.clen - 6) s else raise .decode .noHiddenMessage s

/-- One unpack step: the loop body of R102 for `k = K`, with the write of R113. -/
def unpackMicro (s : State) : Micro :=
  let t := unpackRead s
  if t.k % 8 = 0 then
    if t.acc = 0 then { phase := .complete, state := t }
    else { phase := .work, state := keepByte (writeThrough t) }
  else { phase := .work, state := t }

/-- One micro step of DECODE (R113), which stores no candidate string. -/
def decodeMicro (m : Micro) : Micro :=
  let s := m.state
  match m.phase with
  | .check =>
    if decValid s then { phase := .work, state := decodeStart s }
    else { phase := .done, state := raise .decode .invalidInput (decodeStart s) }
  | .work =>
    if s.k < capBits (pixelCount s.pixLen) then unpackMicro s else { phase := .complete, state := s }
  | .complete => { phase := .done, state := decodeComplete s }
  | .done => m

/-- One micro step of a DECODE that takes the liberty of R113: it stops reading PIX once MOK is 0. -/
def decodeMicroEarly (m : Micro) : Micro :=
  if m.phase = .work ∧ m.state.mok = false then { phase := .complete, state := m.state } else decodeMicro m

end Sys2Proof.Machine
end

