-- ==== Sys2Proof/Safety.lean ====
section
/-! DEFINITION. The terms claims use: the invariant of the machine, what a host can see, operands that are written, and
the text a pixel buffer carries, in closed form. -/

namespace Sys2Proof.Machine

/-- The invariant: legal parameters (R5); lengths that fit their registers (R13 to R15); memories in canonical form,
inside their sizes (R16 to R18); one of the nine STATUS values (R55); the bounds of K and CLEN (R10, R20, R22). -/
structure State.Inv (s : State) : Prop where
  cfg_wf : s.cfg.Wf
  pixLen_lt : s.pixLen < 2 ^ s.cfg.lenW
  msgLen_lt : s.msgLen < 2 ^ s.cfg.lenW
  outLen_le : s.outLen ≤ s.cfg.outMax
  pix_wf : s.pix.Wf
  msg_wf : s.msg.Wf
  out_wf : s.out.Wf
  pix_within : s.pix.Within s.cfg.pixMax
  msg_within : s.msg.Within s.cfg.msgMax
  out_within : s.out.Within s.cfg.outMax
  status_legal : s.status.Legal
  k_le : s.k ≤ capBits (pixelCount s.cfg.pixMax)
  clen_le : s.clen ≤ capBytes (pixelCount s.cfg.pixMax)

/-- The text the registers announce is there: every byte of OUT below OUT_LEN is written and is not zero (R106, R108),
and after a failed DECODE and before any command there is none (R107, R27). -/
structure State.TextInv (s : State) : Prop where
  text_written : ∀ i, i < s.outLen → ∃ v, s.out.read i = some v ∧ v ≠ 0
  failed_empty : s.status.op = .decode → s.status.code ≠ .ok → s.outLen = 0
  fresh_empty : s.status.op = .noCommand → s.outLen = 0

/-- What a host can find out between commands: everything but the working registers (R24) and the count of free
values. -/
def State.visible (s : State) : State := { s with k := 0, acc := 0, clen := 0, mok := false, freeReads := 0 }

/-- A step that stops with a fault. -/
def faults (o : Host.Outcome State Fault Refusal) : Bool :=
  match o with
  | .fault _ => true
  | _ => false

/-- An access or command with no meaning in the model. -/
def refuses (o : Host.Outcome State Fault Refusal) : Bool :=
  match o with
  | .refused _ => true
  | _ => false

/-- The message operand is `m`: MSG_LEN is its length and its bytes stand written in MSG (R14, R17, R144). -/
def State.MessageIs (s : State) (m : List Byte) : Prop :=
  s.msgLen = m.length ∧ ∀ i, i < m.length → s.msg.read i = m[i]?

/-- The bytes of usable channels 0 to `n - 1` stand written in PIX (R144, R145). -/
def ChannelsWritten (p : Memory) (n : Nat) : Prop := ∀ k, k < n → ∃ v, p.read (chanAddr k) = some v

/-- The conditions of R81 on the length registers. -/
def State.EncLengthsOk (s : State) : Prop :=
  s.pixLen % 4 = 0 ∧ s.pixLen ≤ s.cfg.pixMax ∧ s.msgLen ≤ s.cfg.msgMax

/-- The conditions of R101 on PIX_LEN. -/
def State.DecLengthsOk (s : State) : Prop := s.pixLen % 4 = 0 ∧ s.pixLen ≤ s.cfg.pixMax

/-- Bit 0 of usable channel `k`; false where nothing has written the byte (claims carry `ChannelsWritten`). -/
def chanBit (p : Memory) (k : Nat) : Bool :=
  match p.read (chanAddr k) with
  | some v => v.getLsbD 0
  | none => false

/-- The number that the `j`-th aligned group of eight channel bits spells: the sum over `i` of bit `8j + i` times
`2^(7 - i)` (R102). -/
def groupValue (p : Memory) (j : Nat) : Nat :=
  ((List.range 8).map (fun i => (chanBit p (8 * j + i)).toNat * 2 ^ (7 - i))).sum

/-- Byte `j` that a decoder reassembles (R102). -/
def groupByte (p : Memory) (j : Nat) : Byte := BitVec.ofNat 8 (groupValue p j)

/-- The candidate string of a buffer of `n` pixels: its complete groups up to the first zero one (R102 to R104). -/
def candidate (p : Memory) (n : Nat) : List Byte :=
  ((List.range (capBytes n)).map (groupByte p)).takeWhile (fun v => decide (v ≠ 0))

end Sys2Proof.Machine
end

