-- ==== Sys2Proof/Certificates/Slice0/Obligations.lean ====
section
/-! DEFINITION. The statements about the machine. -/

open Sys2Proof Sys2Proof.Machine

/-! ### The command word -/

/-- R50 to R53: words written out from the encodings (sanity). -/
def Obligations.CommandWordsDecode : Prop :=
  decodeWord 0b00000001 = .ok .encode ∧ decodeWord 0b00000010 = .ok .decode ∧
    decodeWord 0b00000000 = .error (.reservedCode 0) ∧ decodeWord 0b00000011 = .error (.reservedCode 3) ∧
    decodeWord 0b11111111 = .error (.reservedCode 255) ∧ decodeWord 0b100000001 = .error (.bitsAboveOpcode 257)

/-- R51, R52: the written value 1, and no other, is ENCODE, and 2, and no other, is DECODE; writing it runs the
command. -/
def Obligations.CommandValuesAreOneAndTwo : Prop :=
  (∀ v, decodeWord v = .ok .encode ↔ v = 1) ∧ (∀ v, decodeWord v = .ok .decode ↔ v = 2) ∧
    ∀ (s : State) (rest : List HostAccess),
      (s.script = .writeReg 0 1 :: rest → step s = execEncode { s with script := rest }) ∧
      (s.script = .writeReg 0 2 :: rest → step s = execDecode { s with script := rest })

/-- Decoder and encoder agree, both ways. -/
def Obligations.CommandCodecRoundTrip : Prop :=
  (∀ i : Instr, i.wf = true → decodeWord (encodeWord i) = .ok i) ∧
    ∀ (v : Nat) (i : Instr), decodeWord v = .ok i → v = encodeWord i

/-- R11, R147: a step runs the command the written value decodes to, on the state from which the access has been taken;
nothing else is added around it. -/
def Obligations.StepRunsDecodedCommand : Prop :=
  (∀ (s : State) (v : Nat) (rest : List HostAccess) (i : Instr),
      s.script = .writeReg 0 v :: rest → decodeWord v = .ok i → step s = exec i { s with script := rest }) ∧
    ∀ (s : State) (i : Instr), i.wf = true → step (s.withFetchWord 8 (encodeWord i)) = exec i s

/-- R53: every other written value sets STATUS to 0x31 and changes nothing else. -/
def Obligations.ReservedCommandOnlySetsStatus : Prop :=
  ∀ (s : State) (v : Nat) (rest : List HostAccess),
    s.script = .writeReg 0 v :: rest → v ≠ 1 → v ≠ 2 →
      step s = .next { s with script := rest, status := { op := .illegal, code := .error .invalidInput } } ∧
        ({ op := .illegal, code := .error .invalidInput } : Status).word = 0x31

/-! ### Reset -/

/-- R27: what reset leaves, for every choice of parameters. That an unspecified byte holds no value is the model's form
of it (log 1). -/
def Obligations.ResetValues : Prop :=
  ∀ c : Config,
    (State.resetWith c).cfg = c ∧ (State.resetWith c).status.word = 0x00 ∧ (State.resetWith c).pixLen = 0 ∧
      (State.resetWith c).msgLen = 0 ∧ (State.resetWith c).outLen = 0 ∧ regValue 0 (State.resetWith c) = some 0 ∧
      ∀ (sp : Space) (a : Nat), ((State.resetWith c).mem sp).read a = none

/-- R140, R27: the reset event puts the registers at their reset values, and leaves no byte of a memory with a value the
model holds ('unspecified', log 1). -/
def Obligations.ResetEventClearsRegisters : Prop :=
  ∀ (s : State) (rest : List HostAccess), s.script = .reset :: rest →
    ∃ t, step s = .next t ∧ t.status = { op := .noCommand, code := .ok } ∧ t.pixLen = 0 ∧ t.msgLen = 0 ∧
      t.outLen = 0 ∧ t.cfg = s.cfg ∧ t.script = rest ∧ t.answers = s.answers ∧ t.freeReads = s.freeReads ∧
      ∀ (sp : Space) (a : Nat), (t.mem sp).read a = none

/-- R141: straight after reset ENCODE ends with EmptyMessage and DECODE with NoHiddenMessage and OUT_LEN 0, and neither
reads a byte of memory: nothing a host can see changes but STATUS, whatever the memories and the working registers
hold, and no free value is drawn. -/
def Obligations.CommandsStraightAfterReset : Prop :=
  ∀ (c : Config) (p m o : Memory) (n k clen : Nat) (acc : Byte) (mok : Bool),
    let s : State := { State.resetWith c with
      pix := p, msg := m, out := o, freeReads := n, k := k, acc := acc, clen := clen, mok := mok }
    (∃ t, exec .encode s = .next t ∧ t.status.word = 0x12 ∧ t.visible = { s with status := t.status }.visible ∧
        t.freeReads = n) ∧
      ∃ t, exec .decode s = .next t ∧ t.status.word = 0x24 ∧ t.outLen = 0 ∧
        t.visible = { s with status := t.status }.visible ∧ t.freeReads = n

/-! ### ENCODE -/

/-- R85: what packing a bit does to a byte. -/
def Obligations.PackBitReplacesBitZero : Prop :=
  ∀ (v : Byte) (b : Bool),
    (packBit v b).getLsbD 0 = b ∧ packBit v b >>> 1 = v >>> 1 ∧
      (packBit v b).toNat = v.toNat - v.toNat % 2 + b.toNat

/-- R86: an ENCODE whose lengths are valid, whose message is written and not empty and whose frame fits completes,
and leaves exactly the six points of R86. -/
def Obligations.EncodeEmbedsFrame : Prop :=
  ∀ (s : State) (m : List Byte),
    s.EncLengthsOk → s.MessageIs m → m ≠ [] → 8 * (m.length + 7) ≤ 3 * (s.pixLen / 4) →
      ∃ t, exec .encode s = .next t ∧ t.status.word = 0x10 ∧
        (∀ k, k < nbits m.length → ∃ v, t.pix.read (chanAddr k) = some v ∧ v.getLsbD 0 = frameBit m k) ∧
        (∀ a v, s.pix.read a = some v → ∃ w, t.pix.read a = some w ∧ w >>> 1 = v >>> 1) ∧
        (∀ p, t.pix.read (4 * p + 3) = s.pix.read (4 * p + 3)) ∧
        (∀ a, chanAddr (nbits m.length - 1) < a → t.pix.read a = s.pix.read a) ∧
        (∀ a, s.pixLen ≤ a → t.pix.read a = s.pix.read a) ∧
        t.msg = s.msg ∧ t.msgLen = s.msgLen ∧ t.pixLen = s.pixLen ∧ t.out = s.out ∧ t.outLen = s.outLen ∧
        ((nbits m.length - 1) % 3 = 2 ↔ (m.length + 7) % 3 = 0) ∧
        ((nbits m.length - 1) % 3 = 0 ↔ (m.length + 7) % 3 = 2) ∧
        ((nbits m.length - 1) % 3 = 1 ↔ (m.length + 7) % 3 = 1)

/-- R89: for valid lengths and a message that is not empty, ENCODE succeeds if and only if the frame's bits are at most
the usable channels; otherwise it ends with CapacityExceeded and PIX is unchanged. -/
def Obligations.EncodeCapacityBoundary : Prop :=
  ∀ s : State, s.EncLengthsOk → s.msgLen ≠ 0 →
    ∃ t, exec .encode s = .next t ∧
      (t.status.word = 0x10 ↔ 8 * (s.msgLen + 7) ≤ 3 * (s.pixLen / 4)) ∧
      (¬ 8 * (s.msgLen + 7) ≤ 3 * (s.pixLen / 4) → t.status.word = 0x13 ∧ t.pix = s.pix)

/-- R83, R84: the bit form and the byte form of the capacity test agree, and the longest message is what R83 says. -/
def Obligations.CapacityFormsAgree : Prop :=
  (∀ l p, nbits l > capBits p ↔ l + 7 > capBytes p) ∧
    (∀ l p, 1 ≤ l → (nbits l ≤ capBits p ↔ ∃ n, maxMsg p = some n ∧ l ≤ n)) ∧
    ∀ p, maxMsg p = none ↔ p < 22

/-- R88: no partial write. An ENCODE that ends with an error leaves PIX as it was. -/
def Obligations.FailedEncodeLeavesPixels : Prop :=
  ∀ s t : State, exec .encode s = .next t → t.status.code ≠ .ok → t.pix = s.pix

/-- What ENCODE leaves unchanged, success or not: PIX outside the channels of the frame, and everything but PIX, STATUS
and the channel cursor (and the count of free values drawn). That ACC, CLEN and MOK stay is the model's choice, from the
pseudocode of R80 (log 14). -/
def Obligations.EncodeFrameCondition : Prop :=
  ∀ s t : State, exec .encode s = .next t →
    t = { s with pix := t.pix, status := t.status, k := t.k, freeReads := t.freeReads } ∧
      ∀ a, (∀ k, k < nbits s.msgLen → a ≠ chanAddr k) → t.pix.read a = s.pix.read a

/-- R90: the pixels after a successful ENCODE are a function of the pixels before, the lengths and the message;
running the ENCODE again changes no byte; at most `NBITS` bytes change, each by exactly 1. -/
def Obligations.EncodeDeterministicIdempotent : Prop :=
  ∀ (s t : State) (m : List Byte),
    s.MessageIs m → ChannelsWritten s.pix (nbits m.length) → exec .encode s = .next t → t.status.code = .ok →
      (∀ s' t' : State, exec .encode s' = .next t' → s'.pixLen = s.pixLen → s'.MessageIs m → t'.status.code = .ok →
        (∀ a, s'.pix.read a = s.pix.read a) → ∀ a, t'.pix.read a = t.pix.read a) ∧
      (∃ u, exec .encode t = .next u ∧ u.status.code = .ok ∧ ∀ a, u.pix.read a = t.pix.read a) ∧
      ∀ a, t.pix.read a = s.pix.read a ∨
        (∃ k, k < nbits m.length ∧ a = chanAddr k) ∧
          ∃ v w : Byte, s.pix.read a = some v ∧ t.pix.read a = some w ∧
            (w.toNat = v.toNat + 1 ∨ w.toNat + 1 = v.toNat)

/-- R74: two ENCODE commands with equal messages embed equal bit sequences, whatever the buffers and whatever else the
states hold. -/
def Obligations.EqualMessagesEmbedEqualBits : Prop :=
  ∀ (s s' t t' : State) (m : List Byte),
    s.MessageIs m → s'.MessageIs m → exec .encode s = .next t → exec .encode s' = .next t' →
      t.status.code = .ok → t'.status.code = .ok →
        ∀ k, k < nbits m.length → chanBit t.pix k = chanBit t'.pix k

/-! ### The Frame Builder -/

/-- R72, R73: the frame's bits number `8 * (L + 7)`, and bit `k` of them is the formula of R73. -/
def Obligations.FrameBitIsElementOfFrameBits : Prop :=
  ∀ m : List Byte,
    (frame m).length = m.length + 7 ∧ (frameBits m).length = nbits m.length ∧
      (∀ k, k < nbits m.length → (frameBits m)[k]? = some (frameBit m k)) ∧
      (∀ k, frameBit m k = ((frame m).getD (k / 8) 0 >>> (7 - k % 8) &&& 1 == 1)) ∧
      (∀ j, j < 6 → (frame m)[j]? = marker[j]?) ∧
      (∀ j, 6 ≤ j → j < 6 + m.length → (frame m)[j]? = m[j - 6]?) ∧
      (frame m).getD (6 + m.length) 1 = 0

/-- R75: the first 48 bits are the Marker's and do not depend on the message; the first zero byte of the frame is the
first zero byte of the message, or the Terminator when it has none. -/
def Obligations.FrameBeginsWithMarkerBits : Prop :=
  ∀ m : List Byte,
    ((frameBits m).take 48).map Bool.toNat =
        [0,1,0,1,0,0,1,1, 0,1,0,1,0,1,0,0, 0,1,0,0,0,1,0,1, 0,1,0,0,0,1,1,1, 0,1,0,0,1,1,1,1, 0,0,1,1,1,0,1,0] ∧
      (frame m).findIdx (fun v => v == 0) = 6 + m.findIdx (fun v => v == 0)

/-! ### Channel addresses -/

/-- R35: the usable channels are the bytes of the buffer that are not alpha, in rising order. -/
def Obligations.ChannelAddressesEnumerateRgb : Prop :=
  (∀ k, chanAddr k = 4 * (k / 3) + k % 3) ∧ (∀ k, chanAddr k % 4 ≠ 3) ∧
    (∀ j k, j < k → chanAddr j < chanAddr k) ∧
    ∀ p a, (a < 4 * p ∧ a % 4 ≠ 3) ↔ ∃ k, k < 3 * p ∧ chanAddr k = a

/-! ### DECODE -/

/-- R102 to R107: on a valid buffer whose channels are written, DECODE completes, and its result is the closed form:
the complete groups up to the first zero one, the Marker check on them, the rest to OUT. -/
def Obligations.DecodeDeliversCandidate : Prop :=
  ∀ s : State, s.cfg.Wf → s.DecLengthsOk → ChannelsWritten s.pix (capBits (pixelCount s.pixLen)) →
    let text := candidate s.pix (pixelCount s.pixLen)
    ∃ t, exec .decode s = .next t ∧
      if 6 ≤ text.length ∧ text.take 6 = marker then
        t.status.word = 0x20 ∧ t.outLen = text.length - 6 ∧ (∀ i, i < t.outLen → t.out.read i = text[6 + i]?) ∧
          ∀ a, t.outLen ≤ a → t.out.read a = s.out.read a
      else t.status.word = 0x24 ∧ t.outLen = 0 ∧ t.out = s.out

/-- R111: exactly which buffers decode with success. -/
def Obligations.DecodeSucceedsIffMarkerBits : Prop :=
  ∀ s : State, s.cfg.Wf → ChannelsWritten s.pix (capBits (pixelCount s.pixLen)) →
    ∃ t, exec .decode s = .next t ∧
      (t.status.word = 0x20 ↔
        s.pixLen % 4 = 0 ∧ s.pixLen ≤ s.cfg.pixMax ∧ 16 ≤ pixelCount s.pixLen ∧
          ∀ k, k < 48 → some (chanBit s.pix k) = (frameBits [])[k]?)

/-- R109: no DECODE, successful or not, writes PIX, MSG, MSG_LEN or PIX_LEN. -/
def Obligations.DecodeNeverWritesItsInput : Prop :=
  ∀ s t : State, exec .decode s = .next t →
    t.pix = s.pix ∧ t.msg = s.msg ∧ t.msgLen = s.msgLen ∧ t.pixLen = s.pixLen

/-- R107: a DECODE that ends with an error writes 0 to OUT_LEN and leaves OUT as it was. -/
def Obligations.FailedDecodeReturnsNoText : Prop :=
  ∀ s t : State, exec .decode s = .next t → t.status.code ≠ .ok →
    t.outLen = 0 ∧ t.out = s.out ∧ t.status.op = .decode ∧
      (t.status.code = .error .invalidInput ∨ t.status.code = .error .noHiddenMessage)

/-- What DECODE leaves unchanged, success or not: everything but OUT below OUT_LEN, OUT_LEN, STATUS and the working
registers (and the count of free values drawn). -/
def Obligations.DecodeFrameCondition : Prop :=
  ∀ s t : State, exec .decode s = .next t →
    t = { s with out := t.out, outLen := t.outLen, status := t.status, k := t.k, acc := t.acc, clen := t.clen,
                 mok := t.mok, freeReads := t.freeReads } ∧
      ∀ a, t.outLen ≤ a → t.out.read a = s.out.read a

/-- R108: the text has at most `MaxText(PIX_LEN)` bytes, each in 1 to 255, and OUT can hold it. -/
def Obligations.DecodedTextIsBounded : Prop :=
  ∀ s t : State, exec .decode s = .next t → t.status.code = .ok →
    t.outLen ≤ maxText s.pixLen ∧ (∀ i, i < t.outLen → ∃ v, t.out.read i = some v ∧ v ≠ 0) ∧
      (s.cfg.Wf → maxText s.pixLen ≤ s.cfg.outMax)

/-- R110: the round trip. `u` is any state whose PIX agrees with ENCODE's result in bit 0 of the frame's channels and
whose PIX_LEN still covers the frame (R149, R150). -/
def Obligations.EncodeThenDecodeReturnsMessage : Prop :=
  ∀ (s : State) (m : List Byte),
    s.cfg.Wf → s.EncLengthsOk → s.MessageIs m → m ≠ [] → (∀ v ∈ m, v ≠ 0) →
      8 * (m.length + 7) ≤ 3 * (s.pixLen / 4) →
        ∃ t, exec .encode s = .next t ∧ t.status.word = 0x10 ∧
          ∀ u : State, u.cfg = t.cfg → u.DecLengthsOk → 8 * (m.length + 7) ≤ 3 * (u.pixLen / 4) →
            ChannelsWritten u.pix (nbits m.length) →
            (∀ k, k < nbits m.length → chanBit u.pix k = chanBit t.pix k) →
              ∃ w, exec .decode u = .next w ∧ w.status.word = 0x20 ∧ w.outLen = m.length ∧
                ∀ i, i < m.length → w.out.read i = m[i]?

/-- R115 (first row), R76: a message that contains a zero byte is encoded, and decodes to the bytes before the first
one. -/
def Obligations.ZeroByteEndsDecodedText : Prop :=
  ∀ (s : State) (m : List Byte),
    s.cfg.Wf → s.EncLengthsOk → s.MessageIs m → (0 : Byte) ∈ m → 8 * (m.length + 7) ≤ 3 * (s.pixLen / 4) →
      ∃ t w, exec .encode s = .next t ∧ t.status.word = 0x10 ∧ exec .decode t = .next w ∧ w.status.word = 0x20 ∧
        w.outLen = m.findIdx (fun v => v == 0) ∧ ∀ i, i < w.outLen → w.out.read i = m[i]?

/-- R115 (the other rows): the Marker and a Terminator; the Marker and no zero group; too few groups; six groups that
differ from the Marker. -/
def Obligations.DecodeOfBuffersEncodeNeverWrites : Prop :=
  ∀ s : State, s.cfg.Wf → s.DecLengthsOk → ChannelsWritten s.pix (capBits (pixelCount s.pixLen)) →
    let n := capBytes (pixelCount s.pixLen)
    let g := groupByte s.pix
    ((∀ j, j < 6 → some (g j) = marker[j]?) → 7 ≤ n → g 6 = 0 →
        ∃ t, exec .decode s = .next t ∧ t.status.word = 0x20 ∧ t.outLen = 0) ∧
      ((∀ j, j < 6 → some (g j) = marker[j]?) → 6 ≤ n → (∀ j, j < n → g j ≠ 0) →
        ∃ t, exec .decode s = .next t ∧ t.status.word = 0x20 ∧ t.outLen = n - 6 ∧
          ∀ i, i < n - 6 → t.out.read i = some (g (6 + i))) ∧
      (∀ z, z < 6 → z ≤ n → (∀ j, j < z → g j ≠ 0) → (z = n ∨ g z = 0) →
        ∃ t, exec .decode s = .next t ∧ t.status.word = 0x24) ∧
      (6 ≤ n → (∀ j, j < 6 → g j ≠ 0) → (∃ j, j < 6 ∧ some (g j) ≠ marker[j]?) →
        ∃ t, exec .decode s = .next t ∧ t.status.word = 0x24)

/-- R105, R23: the marker check on the candidate string is the one on CLEN and MOK, and it decides the result. -/
def Obligations.MarkerCheckIsClenAndMok : Prop :=
  ∀ s : State,
    let r := unpack (decodeStart s)
    r.2.clen = r.1.length ∧ (markerOk r.1 = true ↔ 6 ≤ r.2.clen ∧ r.2.mok = true) ∧
      ∀ t, exec .decode s = .next t → s.DecLengthsOk →
        (t.status.code = .error .noHiddenMessage ↔ ¬ (6 ≤ r.2.clen ∧ r.2.mok = true))

/-- R102: bits 7 to 1 of the PIX bytes, and all A bytes, have no influence on DECODE. -/
def Obligations.DecodeDependsOnBitZeroOnly : Prop :=
  ∀ (s t : State) (p : Memory),
    (∀ k, k < capBits (pixelCount s.pixLen) →
      ∃ v w : Byte, s.pix.read (chanAddr k) = some v ∧ p.read (chanAddr k) = some w ∧ v.getLsbD 0 = w.getLsbD 0) →
    exec .decode s = .next t → exec .decode { s with pix := p } = .next { t with pix := p }

/-! ### Errors -/

/-- R121: when InvalidInput is raised, by each command and by a reserved value. -/
def Obligations.InvalidInputExactly : Prop :=
  (∀ s : State, ∃ t, exec .encode s = .next t ∧
      (t.status = { op := .encode, code := .error .invalidInput } ↔
        s.pixLen % 4 ≠ 0 ∨ s.cfg.pixMax < s.pixLen ∨ s.cfg.msgMax < s.msgLen)) ∧
    (∀ s : State, s.cfg.Wf → ∃ t, exec .decode s = .next t ∧
      (t.status = { op := .decode, code := .error .invalidInput } ↔ s.pixLen % 4 ≠ 0 ∨ s.cfg.pixMax < s.pixLen)) ∧
    ∀ (s : State) (v : Nat) (rest : List HostAccess), s.script = .writeReg 0 v :: rest → v ≠ 1 → v ≠ 2 →
      ∃ t, step s = .next t ∧ t.status = { op := .illegal, code := .error .invalidInput }

/-- R122, R123: when EmptyMessage and CapacityExceeded are raised; ENCODE alone raises them. -/
def Obligations.EncodeOwnErrorsExactly : Prop :=
  (∀ s : State, ∃ t, exec .encode s = .next t ∧
      (t.status.code = .error .emptyMessage ↔ s.EncLengthsOk ∧ s.msgLen = 0) ∧
      (t.status.code = .error .capacityExceeded ↔
        s.EncLengthsOk ∧ s.msgLen ≠ 0 ∧ 8 * (s.msgLen + 7) > 3 * (s.pixLen / 4))) ∧
    ∀ s t : State, exec .decode s = .next t →
      t.status.code ≠ .error .emptyMessage ∧ t.status.code ≠ .error .capacityExceeded

/-- R124: when NoHiddenMessage is raised; DECODE alone raises it. -/
def Obligations.NoHiddenMessageExactly : Prop :=
  (∀ s : State, s.cfg.Wf → ChannelsWritten s.pix (capBits (pixelCount s.pixLen)) →
      ∃ t, exec .decode s = .next t ∧
        (t.status.code = .error .noHiddenMessage ↔
          s.DecLengthsOk ∧
            ((candidate s.pix (pixelCount s.pixLen)).length < 6 ∨
              (candidate s.pix (pixelCount s.pixLen)).take 6 ≠ marker))) ∧
    ∀ s t : State, exec .encode s = .next t → t.status.code ≠ .error .noHiddenMessage

/-- R125: the order in which the conditions are reported. -/
def Obligations.ErrorPriority : Prop :=
  (∀ s : State, ∃ t, exec .encode s = .next t ∧ t.status.op = .encode ∧
      t.status.code =
        if s.pixLen % 4 ≠ 0 ∨ s.cfg.pixMax < s.pixLen ∨ s.cfg.msgMax < s.msgLen then .error .invalidInput
        else if s.msgLen = 0 then .error .emptyMessage
        else if 8 * (s.msgLen + 7) > 3 * (s.pixLen / 4) then .error .capacityExceeded
        else .ok) ∧
    ∀ s : State, s.cfg.Wf → ∃ t, exec .decode s = .next t ∧ t.status.op = .decode ∧
      (if s.pixLen % 4 ≠ 0 ∨ s.cfg.pixMax < s.pixLen then t.status.code = .error .invalidInput
       else t.status.code = .error .noHiddenMessage ∨ t.status.code = .ok)

/-- R126: what `raise` does, and that a command that ends with an error has changed nothing else that a host can see. -/
def Obligations.RaiseWritesStatusOnly : Prop :=
  (∀ (e : ErrorKind) (s : State), raise .encode e s = { s with status := { op := .encode, code := .error e } }) ∧
    (∀ (e : ErrorKind) (s : State),
      raise .decode e s = { s with status := { op := .decode, code := .error e }, outLen := 0 }) ∧
    (∀ (s t : State) (e : ErrorKind), exec .encode s = .next t → t.status.code = .error e →
      t.visible = { s with status := { op := .encode, code := .error e } }.visible) ∧
    ∀ (s t : State) (e : ErrorKind), exec .decode s = .next t → t.status.code = .error e →
      t.visible = { s with status := { op := .decode, code := .error e }, outLen := 0 }.visible

/-- R131, R55: every command ends, and in one of the STATUS values of R55 that belong to it. -/
def Obligations.EveryCommandEnds : Prop :=
  (∀ s : State, ∃ t, exec .encode s = .next t ∧ t.status.word ∈ ([0x10, 0x11, 0x12, 0x13] : List (BitVec 6))) ∧
    (∀ s : State, s.cfg.Wf →
      ∃ t, exec .decode s = .next t ∧ t.status.word ∈ ([0x20, 0x21, 0x24] : List (BitVec 6))) ∧
    ∀ (s : State) (v : Nat) (rest : List HostAccess), s.cfg.Wf → s.script = .writeReg 0 v :: rest →
      ∃ t, step s = .next t ∧ t.status.Legal

/-! ### What does not steer a command -/

/-- R25, R128: no command's behaviour depends on the STATUS before it. -/
def Obligations.StatusNeverSteersCommand : Prop :=
  ∀ (i : Instr) (s : State) (st : Status), exec i { s with status := st } = exec i s

/-- R24: the working registers carry nothing from one command to the next. That ENCODE leaves ACC, CLEN and MOK as they
are, where R24 has every working register re-initialised by every command, is the model's choice (log 14). -/
def Obligations.WorkingRegistersCarryNothing : Prop :=
  ∀ (s : State) (k clen : Nat) (acc : Byte) (mok : Bool),
    (∀ t, exec .encode s = .next t →
      exec .encode { s with k := k, acc := acc, clen := clen, mok := mok } =
        .next { t with acc := acc, clen := clen, mok := mok }) ∧
      exec .decode { s with k := k, acc := acc, clen := clen, mok := mok } = exec .decode s

/-- R54, R101: ENCODE has OUT and OUT_LEN as no operand, DECODE has MSG and MSG_LEN as none. -/
def Obligations.CommandsIgnoreOtherOperands : Prop :=
  (∀ (s t : State) (o : Memory) (n : Nat), exec .encode s = .next t →
      exec .encode { s with out := o, outLen := n } = .next { t with out := o, outLen := n }) ∧
    ∀ (s t : State) (m : Memory) (n : Nat), exec .decode s = .next t →
      exec .decode { s with msg := m, msgLen := n } = .next { t with msg := m, msgLen := n }

/-! ### The step-level descriptions -/

/-- R91: the step-level ENCODE ends in the state of the atomic command, after one check step and, when it succeeds, one
pack step for each frame bit and one completion step. Both leave ACC, CLEN and MOK alone, the model's choice (log 14). -/
def Obligations.EncodeStepsRefineCommand : Prop :=
  ∀ s t : State, exec .encode s = .next t →
    microRun encodeMicro (if t.status.code = .ok then nbits s.msgLen + 2 else 1) { phase := .check, state := s } =
      { phase := .done, state := t }

/-- R91: the invariant between pack steps: the first `n` channels carry the frame's first `n` bits, every other bit of
PIX is as it was. -/
def Obligations.PackStepsInvariant : Prop :=
  ∀ (s : State) (m : List Byte) (n : Nat), s.k = 0 → s.MessageIs m → n ≤ nbits m.length →
    (packSteps n s).k = n ∧
      (∀ k, k < n → ∃ v, (packSteps n s).pix.read (chanAddr k) = some v ∧ v.getLsbD 0 = frameBit m k) ∧
      (∀ a v, s.pix.read a = some v → ∃ w, (packSteps n s).pix.read a = some w ∧ w >>> 1 = v >>> 1) ∧
      ∀ a, (∀ k, k < n → a ≠ chanAddr k) → (packSteps n s).pix.read a = s.pix.read a

/-- R113: the step-level DECODE, which stores no candidate string and writes OUT as bytes complete, ends in the state of
the atomic command, after at most `3 * P` unpack steps. -/
def Obligations.DecodeStepsRefineCommand : Prop :=
  ∀ s t : State, exec .decode s = .next t →
    ∃ n, n ≤ 3 * (s.pixLen / 4) + 3 ∧
      microRun decodeMicro n { phase := .check, state := s } = { phase := .done, state := t }

/-- R113: a step-level DECODE that stops reading once MOK is 0 cannot be told from the atomic command. -/
def Obligations.DecodeEarlyStopIsInvisible : Prop :=
  ∀ s t : State, exec .decode s = .next t →
    ∃ n u, microRun decodeMicroEarly n { phase := .check, state := s } = { phase := .done, state := u } ∧
      u.visible = t.visible

/-! ### The host's accesses -/

/-- R11 to R15, R33: what each register reads as; a read changes nothing of the block. -/
def Obligations.RegisterReadsReturnValue : Prop :=
  ∀ (s : State) (i : Nat) (rest : List HostAccess), s.script = .readReg i :: rest → i ≤ 4 →
    ∃ n, step s = .next { s with script := rest, answers := s.answers ++ [n] } ∧
      (i = 0 → n = 0) ∧ (i = 1 → n = s.status.code.number + 16 * s.status.op.number) ∧ (i = 2 → n = s.pixLen) ∧
      (i = 3 → n = s.msgLen) ∧ (i = 4 → n = s.outLen)

/-- R12 to R15: what a host write does to each register other than CMD. The refusal is the model's form of 'cannot be
presented' (log 10). -/
def Obligations.RegisterWritesRespectAccessRights : Prop :=
  ∀ (s : State) (i v : Nat) (rest : List HostAccess), s.script = .writeReg i v :: rest →
    (i = 1 ∨ i = 4 → step s = .next { s with script := rest }) ∧
      (i = 2 → step s =
        if v < 2 ^ s.cfg.lenW then .next { s with script := rest, pixLen := v } else .refused (.valueTooWide 2 v)) ∧
      (i = 3 → step s =
        if v < 2 ^ s.cfg.lenW then .next { s with script := rest, msgLen := v } else .refused (.valueTooWide 3 v))

/-- R16 to R18, R33: a host write stores one byte of PIX or MSG and no other, and OUT ignores it; a host read of a
written byte returns it and changes nothing of the block. -/
def Obligations.ByteAccessesReadAndWriteOneByte : Prop :=
  (∀ (s : State) (sp : Space) (a : Nat) (v : Byte) (rest : List HostAccess),
      s.script = .writeByte sp a v :: rest → a < s.cfg.size sp →
        ∃ t, step s = .next t ∧ t = { s with script := rest, pix := t.pix, msg := t.msg } ∧
          ∀ (sp' : Space) (b : Nat),
            (t.mem sp').read b = if sp' = sp ∧ b = a ∧ sp ≠ .out then some v else (s.mem sp').read b) ∧
    ∀ (s : State) (sp : Space) (a : Nat) (v : Byte) (rest : List HostAccess),
      s.script = .readByte sp a :: rest → a < s.cfg.size sp → (s.mem sp).read a = some v →
        step s = .next { s with script := rest, answers := s.answers ++ [v.toNat] }

/-- R26, R37, R13, R14: a step refuses exactly the accesses a host must not make or cannot present (logs 9, 10). -/
def Obligations.StepRefusesExactlyIllFormedAccess : Prop :=
  ∀ (s : State) (a : HostAccess) (rest : List HostAccess), s.script = a :: rest →
    (refuses (step s) = true ↔ a.wf s.cfg = false)

/-- R133, R143: with no access pending the block holds its state (log 16). -/
def Obligations.IdleBlockHoldsItsState : Prop := ∀ s : State, s.script = [] → step s = .next s

/-- R145, log 1 (the model's treatment): a host read of a byte not written since reset returns the next free value, also
when something had written it before the reset. A statement about `Config.freeByte` holds whatever its values are. -/
def Obligations.UnwrittenByteReadsAsFreeValue : Prop :=
  (∀ (s : State) (sp : Space) (a : Nat) (rest : List HostAccess),
      s.script = .readByte sp a :: rest → a < s.cfg.size sp → (s.mem sp).read a = none →
        step s = .next { s with script := rest, answers := s.answers ++ [(Config.freeByte s.freeReads).toNat],
                                freeReads := s.freeReads + 1 }) ∧
    ∀ (s : State) (sp : Space) (a : Nat) (rest : List HostAccess),
      s.script = .reset :: .readByte sp a :: rest → a < s.cfg.size sp →
        ∃ t u, step s = .next t ∧ step t = .next u ∧
          u.answers = s.answers ++ [(Config.freeByte s.freeReads).toNat]

/-- R144, R145: a command whose operand bytes are written draws no free value. -/
def Obligations.WrittenOperandsDrawNoFreeValue : Prop :=
  (∀ (s t : State) (m : List Byte), s.MessageIs m → ChannelsWritten s.pix (nbits m.length) →
      exec .encode s = .next t → t.freeReads = s.freeReads) ∧
    ∀ s t : State, ChannelsWritten s.pix (capBits (pixelCount s.pixLen)) →
      exec .decode s = .next t → t.freeReads = s.freeReads

/-- R61, R62: LOADPIX and LOADMSG leave the bytes in their memory from index 0 on and the length in its register, and
nothing else. -/
def Obligations.LoadLinesStoreOperands : Prop :=
  (∀ (s : State) (bs : List Byte) (rest : List HostAccess),
      bs.length ≤ s.cfg.pixMax → bs.length < 2 ^ s.cfg.lenW → s.script = loadPix bs ++ rest →
        ∃ t : State, core.run (bs.length + 1) s = .next t ∧
          t = { s with script := rest, pix := t.pix, pixLen := bs.length } ∧
          (∀ i, i < bs.length → t.pix.read i = bs[i]?) ∧ ∀ i, bs.length ≤ i → t.pix.read i = s.pix.read i) ∧
    ∀ (s : State) (bs : List Byte) (rest : List HostAccess),
      bs.length ≤ s.cfg.msgMax → bs.length < 2 ^ s.cfg.lenW → s.script = loadMsg bs ++ rest →
        ∃ t : State, core.run (bs.length + 1) s = .next t ∧
          t = { s with script := rest, msg := t.msg, msgLen := bs.length } ∧ t.MessageIs bs ∧
          ∀ i, bs.length ≤ i → t.msg.read i = s.msg.read i

/-- R62: READTEXT returns OUT_LEN and then the bytes of the text, and changes nothing of the block. -/
def Obligations.ReadTextReturnsDeliveredText : Prop :=
  ∀ (s : State) (rest : List HostAccess),
    s.TextInv → s.outLen ≤ s.cfg.outMax → s.script = readText s ++ rest →
      core.run (s.outLen + 1) s =
        .next { s with
          script := rest
          answers := s.answers ++ s.outLen :: (List.range s.outLen).map (fun i => ((s.out.read i).getD 0).toNat) }

/-- R7: the host's conversion refuses a text with a code point above 255, and otherwise gives one byte per character,
its code point. -/
def Obligations.TextBytesRefuseHighCodePoints : Prop :=
  ∀ cs : List Char,
    (textBytes cs = none ↔ ∃ c ∈ cs, 255 < c.toNat) ∧
      ∀ bs, textBytes cs = some bs → bs.map BitVec.toNat = cs.map Char.toNat

/-! ### Whole-machine rules -/

/-- Every step keeps the invariant; a reset event meets its bounds on K and CLEN by the values of log 5. -/
def Obligations.StepKeepsInvariant : Prop := ∀ s t : State, s.Inv → step s = .next t → t.Inv

/-- The reset state meets the invariant, for every legal choice of parameters. `State.reset` carries the parameters of
log 4, and K and CLEN are within their bounds by the values of log 5. -/
def Obligations.ResetMeetsInvariant : Prop :=
  State.reset.Inv ∧ State.reset.TextInv ∧ ∀ c : Config, c.Wf → (State.resetWith c).Inv ∧ (State.resetWith c).TextInv

/-- Every step keeps the announced text in place. -/
def Obligations.StepKeepsDeliveredText : Prop := ∀ s t : State, s.TextInv → step s = .next t → t.TextInv

/-- R5: with legal parameters OUT never overflows; no step faults (log 11). -/
def Obligations.LegalParametersNeverFault : Prop := ∀ s : State, s.cfg.Wf → faults (step s) = false

/-- R10 to R18: the parameters never change; STATUS changes only by a CMD write or reset; PIX only by ENCODE, a host
write to PIX or reset; MSG only by a host write to MSG or reset; OUT only by DECODE or reset; OUT_LEN only by DECODE or
reset; the length registers only by a host write to them or reset. What a reset does to a memory is to leave its bytes
without a value (log 1). -/
def Obligations.OnlyTheNamedAccessChangesEachField : Prop :=
  ∀ (s t : State) (a : HostAccess) (rest : List HostAccess), s.script = a :: rest → step s = .next t →
    t.cfg = s.cfg ∧ t.script = rest ∧
      (t.status ≠ s.status → (∃ v, a = .writeReg 0 v) ∨ a = .reset) ∧
      (t.pix ≠ s.pix → a = .writeReg 0 1 ∨ (∃ b v, a = .writeByte .pix b v) ∨ a = .reset) ∧
      (t.msg ≠ s.msg → (∃ b v, a = .writeByte .msg b v) ∨ a = .reset) ∧
      (t.out ≠ s.out → a = .writeReg 0 2 ∨ a = .reset) ∧
      (t.outLen ≠ s.outLen → a = .writeReg 0 2 ∨ a = .reset) ∧
      (t.pixLen ≠ s.pixLen → (∃ v, a = .writeReg 2 v) ∨ a = .reset) ∧
      (t.msgLen ≠ s.msgLen → (∃ v, a = .writeReg 3 v) ∨ a = .reset)
end

