-- ==== Sys2Proof/Laws/Memory.lean ====
section
/-! SUPPORT. The laws of a memory: read after write, what a write leaves alone, the canonical form. -/

namespace Sys2Proof.Machine

/-- Reading after a write gives the byte written, and what was there before at every other index. -/
theorem Memory.read_write (m : Memory) (a b : Nat) (v : Byte) :
    (m.write a v).read b = if b = a then some v else m.read b := by
  induction m with
  | nil => simp [Memory.write, Memory.read]
  | cons c m ih =>
    obtain ⟨d, w⟩ := c
    simp only [Memory.write]
    split
    · simp [Memory.read]
    · split
      · subst_vars
        simp only [Memory.read]
        split <;> simp_all
      · simp only [Memory.read, ih]
        split
        · have : b ≠ a := by omega
          simp [this]
        · rfl

theorem Memory.read_write_same (m : Memory) (a : Nat) (v : Byte) : (m.write a v).read a = some v := by
  simp [Memory.read_write]

theorem Memory.read_write_other (m : Memory) {a b : Nat} (v : Byte) (h : b ≠ a) : (m.write a v).read b = m.read b := by
  simp [Memory.read_write, h]

/-- The entries after a write: the one written, or one that was there. -/
theorem Memory.mem_write {m : Memory} {a : Nat} {v : Byte} {c : Host.Cell} (h : c ∈ m.write a v) :
    c = (a, v) ∨ c ∈ m := by
  induction m with
  | nil => simpa [Memory.write] using h
  | cons d m ih =>
    obtain ⟨b, w⟩ := d
    simp only [Memory.write] at h
    split at h
    · simpa using h
    · split at h
      · simp only [List.mem_cons] at h ⊢
        exact h.imp id Or.inr
      · simp only [List.mem_cons] at h ⊢
        rcases h with rfl | h
        · exact .inr (.inl rfl)
        · exact (ih h).imp id Or.inr

/-- A write keeps the canonical form. -/
theorem Memory.write_wf {m : Memory} (h : m.Wf) (a : Nat) (v : Byte) : (m.write a v).Wf := by
  induction m with
  | nil => simp [Memory.write]
  | cons c m ih =>
    obtain ⟨b, w⟩ := c
    rw [Memory.Wf, List.pairwise_cons] at h
    obtain ⟨hb, hm⟩ := h
    simp only [Memory.write]
    split
    case isTrue hab =>
      refine List.pairwise_cons.2 ⟨fun d hd => ?_, List.pairwise_cons.2 ⟨hb, hm⟩⟩
      rcases List.mem_cons.1 hd with rfl | hd
      · exact hab
      · exact Nat.lt_trans hab (hb d hd)
    case isFalse hab =>
      split
      case isTrue heq =>
        subst heq
        exact List.pairwise_cons.2 ⟨hb, hm⟩
      case isFalse hne =>
        refine List.pairwise_cons.2 ⟨fun d hd => ?_, ih hm⟩
        rcases Memory.mem_write hd with rfl | hd
        · show b < a
          omega
        · exact hb d hd

/-- A write inside a memory keeps every byte inside it. -/
theorem Memory.write_within {m : Memory} {n a : Nat} (h : m.Within n) (ha : a < n) (v : Byte) :
    (m.write a v).Within n := by
  intro c hc
  rcases Memory.mem_write hc with rfl | hc
  · exact ha
  · exact h c hc

/-- Writing back the byte a canonical memory holds changes nothing. -/
theorem Memory.write_read {m : Memory} (h : m.Wf) {a : Nat} {v : Byte} (hr : m.read a = some v) : m.write a v = m := by
  induction m with
  | nil => simp [Memory.read] at hr
  | cons c m ih =>
    obtain ⟨b, w⟩ := c
    rw [Memory.Wf, List.pairwise_cons] at h
    obtain ⟨hb, hm⟩ := h
    simp only [Memory.read] at hr
    simp only [Memory.write]
    split at hr
    case isTrue heq =>
      subst heq
      simp_all
    case isFalse hne =>
      have hmem : ∀ m : Memory, m.read a = some v → (a, v) ∈ m := by
        intro m
        induction m with
        | nil => simp [Memory.read]
        | cons d m ih2 =>
          obtain ⟨e, u⟩ := d
          simp only [Memory.read]
          split
          · rintro h
            simp_all
          · exact fun h => List.mem_cons_of_mem _ (ih2 h)
      have hlt : b < a := hb _ (hmem m hr)
      rw [if_neg (by omega), if_neg hne, ih hm hr]

end Sys2Proof.Machine
end

