-- ==== Sys2Proof/Laws/State.lean ====
section
/-! SUPPORT. One lemma per field per named update of State, each true by unfolding the update. -/

namespace Sys2Proof.Machine

/-! ### `setStatus` writes both fields of STATUS -/

@[simp] theorem setStatus_cfg (op : StatusOp) (code : StatusCode) (s : State) :
    (setStatus op code s).cfg = s.cfg := rfl

@[simp] theorem setStatus_status (op : StatusOp) (code : StatusCode) (s : State) :
    (setStatus op code s).status = { op := op, code := code } := rfl

@[simp] theorem setStatus_pixLen (op : StatusOp) (code : StatusCode) (s : State) :
    (setStatus op code s).pixLen = s.pixLen := rfl

@[simp] theorem setStatus_msgLen (op : StatusOp) (code : StatusCode) (s : State) :
    (setStatus op code s).msgLen = s.msgLen := rfl

@[simp] theorem setStatus_outLen (op : StatusOp) (code : StatusCode) (s : State) :
    (setStatus op code s).outLen = s.outLen := rfl

@[simp] theorem setStatus_pix (op : StatusOp) (code : StatusCode) (s : State) :
    (setStatus op code s).pix = s.pix := rfl

@[simp] theorem setStatus_msg (op : StatusOp) (code : StatusCode) (s : State) :
    (setStatus op code s).msg = s.msg := rfl

@[simp] theorem setStatus_out (op : StatusOp) (code : StatusCode) (s : State) :
    (setStatus op code s).out = s.out := rfl

@[simp] theorem setStatus_k (op : StatusOp) (code : StatusCode) (s : State) :
    (setStatus op code s).k = s.k := rfl

@[simp] theorem setStatus_acc (op : StatusOp) (code : StatusCode) (s : State) :
    (setStatus op code s).acc = s.acc := rfl

@[simp] theorem setStatus_clen (op : StatusOp) (code : StatusCode) (s : State) :
    (setStatus op code s).clen = s.clen := rfl

@[simp] theorem setStatus_mok (op : StatusOp) (code : StatusCode) (s : State) :
    (setStatus op code s).mok = s.mok := rfl

@[simp] theorem setStatus_script (op : StatusOp) (code : StatusCode) (s : State) :
    (setStatus op code s).script = s.script := rfl

@[simp] theorem setStatus_answers (op : StatusOp) (code : StatusCode) (s : State) :
    (setStatus op code s).answers = s.answers := rfl

@[simp] theorem setStatus_freeReads (op : StatusOp) (code : StatusCode) (s : State) :
    (setStatus op code s).freeReads = s.freeReads := rfl

/-! ### `raise` in ENCODE (R126) -/

@[simp] theorem raiseEncode_cfg (e : ErrorKind) (s : State) :
    (raise .encode e s).cfg = s.cfg := rfl

@[simp] theorem raiseEncode_status (e : ErrorKind) (s : State) :
    (raise .encode e s).status = { op := .encode, code := .error e } := rfl

@[simp] theorem raiseEncode_pixLen (e : ErrorKind) (s : State) :
    (raise .encode e s).pixLen = s.pixLen := rfl

@[simp] theorem raiseEncode_msgLen (e : ErrorKind) (s : State) :
    (raise .encode e s).msgLen = s.msgLen := rfl

@[simp] theorem raiseEncode_outLen (e : ErrorKind) (s : State) :
    (raise .encode e s).outLen = s.outLen := rfl

@[simp] theorem raiseEncode_pix (e : ErrorKind) (s : State) :
    (raise .encode e s).pix = s.pix := rfl

@[simp] theorem raiseEncode_msg (e : ErrorKind) (s : State) :
    (raise .encode e s).msg = s.msg := rfl

@[simp] theorem raiseEncode_out (e : ErrorKind) (s : State) :
    (raise .encode e s).out = s.out := rfl

@[simp] theorem raiseEncode_k (e : ErrorKind) (s : State) :
    (raise .encode e s).k = s.k := rfl

@[simp] theorem raiseEncode_acc (e : ErrorKind) (s : State) :
    (raise .encode e s).acc = s.acc := rfl

@[simp] theorem raiseEncode_clen (e : ErrorKind) (s : State) :
    (raise .encode e s).clen = s.clen := rfl

@[simp] theorem raiseEncode_mok (e : ErrorKind) (s : State) :
    (raise .encode e s).mok = s.mok := rfl

@[simp] theorem raiseEncode_script (e : ErrorKind) (s : State) :
    (raise .encode e s).script = s.script := rfl

@[simp] theorem raiseEncode_answers (e : ErrorKind) (s : State) :
    (raise .encode e s).answers = s.answers := rfl

@[simp] theorem raiseEncode_freeReads (e : ErrorKind) (s : State) :
    (raise .encode e s).freeReads = s.freeReads := rfl

/-! ### `raise` in DECODE (R126, R107) -/

@[simp] theorem raiseDecode_cfg (e : ErrorKind) (s : State) :
    (raise .decode e s).cfg = s.cfg := rfl

@[simp] theorem raiseDecode_status (e : ErrorKind) (s : State) :
    (raise .decode e s).status = { op := .decode, code := .error e } := rfl

@[simp] theorem raiseDecode_pixLen (e : ErrorKind) (s : State) :
    (raise .decode e s).pixLen = s.pixLen := rfl

@[simp] theorem raiseDecode_msgLen (e : ErrorKind) (s : State) :
    (raise .decode e s).msgLen = s.msgLen := rfl

@[simp] theorem raiseDecode_outLen (e : ErrorKind) (s : State) :
    (raise .decode e s).outLen = 0 := rfl

@[simp] theorem raiseDecode_pix (e : ErrorKind) (s : State) :
    (raise .decode e s).pix = s.pix := rfl

@[simp] theorem raiseDecode_msg (e : ErrorKind) (s : State) :
    (raise .decode e s).msg = s.msg := rfl

@[simp] theorem raiseDecode_out (e : ErrorKind) (s : State) :
    (raise .decode e s).out = s.out := rfl

@[simp] theorem raiseDecode_k (e : ErrorKind) (s : State) :
    (raise .decode e s).k = s.k := rfl

@[simp] theorem raiseDecode_acc (e : ErrorKind) (s : State) :
    (raise .decode e s).acc = s.acc := rfl

@[simp] theorem raiseDecode_clen (e : ErrorKind) (s : State) :
    (raise .decode e s).clen = s.clen := rfl

@[simp] theorem raiseDecode_mok (e : ErrorKind) (s : State) :
    (raise .decode e s).mok = s.mok := rfl

@[simp] theorem raiseDecode_script (e : ErrorKind) (s : State) :
    (raise .decode e s).script = s.script := rfl

@[simp] theorem raiseDecode_answers (e : ErrorKind) (s : State) :
    (raise .decode e s).answers = s.answers := rfl

@[simp] theorem raiseDecode_freeReads (e : ErrorKind) (s : State) :
    (raise .decode e s).freeReads = s.freeReads := rfl

/-! ### `answer` records a value returned to the host -/

@[simp] theorem answer_cfg (n : Nat) (s : State) :
    (answer n s).cfg = s.cfg := rfl

@[simp] theorem answer_status (n : Nat) (s : State) :
    (answer n s).status = s.status := rfl

@[simp] theorem answer_pixLen (n : Nat) (s : State) :
    (answer n s).pixLen = s.pixLen := rfl

@[simp] theorem answer_msgLen (n : Nat) (s : State) :
    (answer n s).msgLen = s.msgLen := rfl

@[simp] theorem answer_outLen (n : Nat) (s : State) :
    (answer n s).outLen = s.outLen := rfl

@[simp] theorem answer_pix (n : Nat) (s : State) :
    (answer n s).pix = s.pix := rfl

@[simp] theorem answer_msg (n : Nat) (s : State) :
    (answer n s).msg = s.msg := rfl

@[simp] theorem answer_out (n : Nat) (s : State) :
    (answer n s).out = s.out := rfl

@[simp] theorem answer_k (n : Nat) (s : State) :
    (answer n s).k = s.k := rfl

@[simp] theorem answer_acc (n : Nat) (s : State) :
    (answer n s).acc = s.acc := rfl

@[simp] theorem answer_clen (n : Nat) (s : State) :
    (answer n s).clen = s.clen := rfl

@[simp] theorem answer_mok (n : Nat) (s : State) :
    (answer n s).mok = s.mok := rfl

@[simp] theorem answer_script (n : Nat) (s : State) :
    (answer n s).script = s.script := rfl

@[simp] theorem answer_answers (n : Nat) (s : State) :
    (answer n s).answers = s.answers ++ [n] := rfl

@[simp] theorem answer_freeReads (n : Nat) (s : State) :
    (answer n s).freeReads = s.freeReads := rfl

/-! ### `writeByte` in PIX -/

@[simp] theorem writePix_cfg (a : Nat) (v : Byte) (s : State) :
    (writeByte .pix a v s).cfg = s.cfg := rfl

@[simp] theorem writePix_status (a : Nat) (v : Byte) (s : State) :
    (writeByte .pix a v s).status = s.status := rfl

@[simp] theorem writePix_pixLen (a : Nat) (v : Byte) (s : State) :
    (writeByte .pix a v s).pixLen = s.pixLen := rfl

@[simp] theorem writePix_msgLen (a : Nat) (v : Byte) (s : State) :
    (writeByte .pix a v s).msgLen = s.msgLen := rfl

@[simp] theorem writePix_outLen (a : Nat) (v : Byte) (s : State) :
    (writeByte .pix a v s).outLen = s.outLen := rfl

@[simp] theorem writePix_pix (a : Nat) (v : Byte) (s : State) :
    (writeByte .pix a v s).pix = s.pix.write a v := rfl

@[simp] theorem writePix_msg (a : Nat) (v : Byte) (s : State) :
    (writeByte .pix a v s).msg = s.msg := rfl

@[simp] theorem writePix_out (a : Nat) (v : Byte) (s : State) :
    (writeByte .pix a v s).out = s.out := rfl

@[simp] theorem writePix_k (a : Nat) (v : Byte) (s : State) :
    (writeByte .pix a v s).k = s.k := rfl

@[simp] theorem writePix_acc (a : Nat) (v : Byte) (s : State) :
    (writeByte .pix a v s).acc = s.acc := rfl

@[simp] theorem writePix_clen (a : Nat) (v : Byte) (s : State) :
    (writeByte .pix a v s).clen = s.clen := rfl

@[simp] theorem writePix_mok (a : Nat) (v : Byte) (s : State) :
    (writeByte .pix a v s).mok = s.mok := rfl

@[simp] theorem writePix_script (a : Nat) (v : Byte) (s : State) :
    (writeByte .pix a v s).script = s.script := rfl

@[simp] theorem writePix_answers (a : Nat) (v : Byte) (s : State) :
    (writeByte .pix a v s).answers = s.answers := rfl

@[simp] theorem writePix_freeReads (a : Nat) (v : Byte) (s : State) :
    (writeByte .pix a v s).freeReads = s.freeReads := rfl

/-! ### `writeByte` in MSG -/

@[simp] theorem writeMsg_cfg (a : Nat) (v : Byte) (s : State) :
    (writeByte .msg a v s).cfg = s.cfg := rfl

@[simp] theorem writeMsg_status (a : Nat) (v : Byte) (s : State) :
    (writeByte .msg a v s).status = s.status := rfl

@[simp] theorem writeMsg_pixLen (a : Nat) (v : Byte) (s : State) :
    (writeByte .msg a v s).pixLen = s.pixLen := rfl

@[simp] theorem writeMsg_msgLen (a : Nat) (v : Byte) (s : State) :
    (writeByte .msg a v s).msgLen = s.msgLen := rfl

@[simp] theorem writeMsg_outLen (a : Nat) (v : Byte) (s : State) :
    (writeByte .msg a v s).outLen = s.outLen := rfl

@[simp] theorem writeMsg_pix (a : Nat) (v : Byte) (s : State) :
    (writeByte .msg a v s).pix = s.pix := rfl

@[simp] theorem writeMsg_msg (a : Nat) (v : Byte) (s : State) :
    (writeByte .msg a v s).msg = s.msg.write a v := rfl

@[simp] theorem writeMsg_out (a : Nat) (v : Byte) (s : State) :
    (writeByte .msg a v s).out = s.out := rfl

@[simp] theorem writeMsg_k (a : Nat) (v : Byte) (s : State) :
    (writeByte .msg a v s).k = s.k := rfl

@[simp] theorem writeMsg_acc (a : Nat) (v : Byte) (s : State) :
    (writeByte .msg a v s).acc = s.acc := rfl

@[simp] theorem writeMsg_clen (a : Nat) (v : Byte) (s : State) :
    (writeByte .msg a v s).clen = s.clen := rfl

@[simp] theorem writeMsg_mok (a : Nat) (v : Byte) (s : State) :
    (writeByte .msg a v s).mok = s.mok := rfl

@[simp] theorem writeMsg_script (a : Nat) (v : Byte) (s : State) :
    (writeByte .msg a v s).script = s.script := rfl

@[simp] theorem writeMsg_answers (a : Nat) (v : Byte) (s : State) :
    (writeByte .msg a v s).answers = s.answers := rfl

@[simp] theorem writeMsg_freeReads (a : Nat) (v : Byte) (s : State) :
    (writeByte .msg a v s).freeReads = s.freeReads := rfl

/-! ### `writeByte` in OUT -/

@[simp] theorem writeOut_cfg (a : Nat) (v : Byte) (s : State) :
    (writeByte .out a v s).cfg = s.cfg := rfl

@[simp] theorem writeOut_status (a : Nat) (v : Byte) (s : State) :
    (writeByte .out a v s).status = s.status := rfl

@[simp] theorem writeOut_pixLen (a : Nat) (v : Byte) (s : State) :
    (writeByte .out a v s).pixLen = s.pixLen := rfl

@[simp] theorem writeOut_msgLen (a : Nat) (v : Byte) (s : State) :
    (writeByte .out a v s).msgLen = s.msgLen := rfl

@[simp] theorem writeOut_outLen (a : Nat) (v : Byte) (s : State) :
    (writeByte .out a v s).outLen = s.outLen := rfl

@[simp] theorem writeOut_pix (a : Nat) (v : Byte) (s : State) :
    (writeByte .out a v s).pix = s.pix := rfl

@[simp] theorem writeOut_msg (a : Nat) (v : Byte) (s : State) :
    (writeByte .out a v s).msg = s.msg := rfl

@[simp] theorem writeOut_out (a : Nat) (v : Byte) (s : State) :
    (writeByte .out a v s).out = s.out.write a v := rfl

@[simp] theorem writeOut_k (a : Nat) (v : Byte) (s : State) :
    (writeByte .out a v s).k = s.k := rfl

@[simp] theorem writeOut_acc (a : Nat) (v : Byte) (s : State) :
    (writeByte .out a v s).acc = s.acc := rfl

@[simp] theorem writeOut_clen (a : Nat) (v : Byte) (s : State) :
    (writeByte .out a v s).clen = s.clen := rfl

@[simp] theorem writeOut_mok (a : Nat) (v : Byte) (s : State) :
    (writeByte .out a v s).mok = s.mok := rfl

@[simp] theorem writeOut_script (a : Nat) (v : Byte) (s : State) :
    (writeByte .out a v s).script = s.script := rfl

@[simp] theorem writeOut_answers (a : Nat) (v : Byte) (s : State) :
    (writeByte .out a v s).answers = s.answers := rfl

@[simp] theorem writeOut_freeReads (a : Nat) (v : Byte) (s : State) :
    (writeByte .out a v s).freeReads = s.freeReads := rfl

/-! ### `encodeStart` (R80) -/

@[simp] theorem encodeStart_cfg (s : State) : (encodeStart s).cfg = s.cfg := rfl

@[simp] theorem encodeStart_status (s : State) : (encodeStart s).status = s.status := rfl

@[simp] theorem encodeStart_pixLen (s : State) : (encodeStart s).pixLen = s.pixLen := rfl

@[simp] theorem encodeStart_msgLen (s : State) : (encodeStart s).msgLen = s.msgLen := rfl

@[simp] theorem encodeStart_outLen (s : State) : (encodeStart s).outLen = s.outLen := rfl

@[simp] theorem encodeStart_pix (s : State) : (encodeStart s).pix = s.pix := rfl

@[simp] theorem encodeStart_msg (s : State) : (encodeStart s).msg = s.msg := rfl

@[simp] theorem encodeStart_out (s : State) : (encodeStart s).out = s.out := rfl

@[simp] theorem encodeStart_k (s : State) : (encodeStart s).k = 0 := rfl

@[simp] theorem encodeStart_acc (s : State) : (encodeStart s).acc = s.acc := rfl

@[simp] theorem encodeStart_clen (s : State) : (encodeStart s).clen = s.clen := rfl

@[simp] theorem encodeStart_mok (s : State) : (encodeStart s).mok = s.mok := rfl

@[simp] theorem encodeStart_script (s : State) : (encodeStart s).script = s.script := rfl

@[simp] theorem encodeStart_answers (s : State) : (encodeStart s).answers = s.answers := rfl

@[simp] theorem encodeStart_freeReads (s : State) : (encodeStart s).freeReads = s.freeReads := rfl

/-! ### `encodeDone` (R87) -/

@[simp] theorem encodeDone_cfg (s : State) :
    (encodeDone s).cfg = s.cfg := rfl

@[simp] theorem encodeDone_status (s : State) :
    (encodeDone s).status = { op := .encode, code := .ok } := rfl

@[simp] theorem encodeDone_pixLen (s : State) :
    (encodeDone s).pixLen = s.pixLen := rfl

@[simp] theorem encodeDone_msgLen (s : State) :
    (encodeDone s).msgLen = s.msgLen := rfl

@[simp] theorem encodeDone_outLen (s : State) :
    (encodeDone s).outLen = s.outLen := rfl

@[simp] theorem encodeDone_pix (s : State) :
    (encodeDone s).pix = s.pix := rfl

@[simp] theorem encodeDone_msg (s : State) :
    (encodeDone s).msg = s.msg := rfl

@[simp] theorem encodeDone_out (s : State) :
    (encodeDone s).out = s.out := rfl

@[simp] theorem encodeDone_k (s : State) :
    (encodeDone s).k = s.k := rfl

@[simp] theorem encodeDone_acc (s : State) :
    (encodeDone s).acc = s.acc := rfl

@[simp] theorem encodeDone_clen (s : State) :
    (encodeDone s).clen = s.clen := rfl

@[simp] theorem encodeDone_mok (s : State) :
    (encodeDone s).mok = s.mok := rfl

@[simp] theorem encodeDone_script (s : State) :
    (encodeDone s).script = s.script := rfl

@[simp] theorem encodeDone_answers (s : State) :
    (encodeDone s).answers = s.answers := rfl

@[simp] theorem encodeDone_freeReads (s : State) :
    (encodeDone s).freeReads = s.freeReads := rfl

/-! ### `decodeDone` (R106) -/

@[simp] theorem decodeDone_cfg (n : Nat) (s : State) :
    (decodeDone n s).cfg = s.cfg := rfl

@[simp] theorem decodeDone_status (n : Nat) (s : State) :
    (decodeDone n s).status = { op := .decode, code := .ok } := rfl

@[simp] theorem decodeDone_pixLen (n : Nat) (s : State) :
    (decodeDone n s).pixLen = s.pixLen := rfl

@[simp] theorem decodeDone_msgLen (n : Nat) (s : State) :
    (decodeDone n s).msgLen = s.msgLen := rfl

@[simp] theorem decodeDone_outLen (n : Nat) (s : State) :
    (decodeDone n s).outLen = n := rfl

@[simp] theorem decodeDone_pix (n : Nat) (s : State) :
    (decodeDone n s).pix = s.pix := rfl

@[simp] theorem decodeDone_msg (n : Nat) (s : State) :
    (decodeDone n s).msg = s.msg := rfl

@[simp] theorem decodeDone_out (n : Nat) (s : State) :
    (decodeDone n s).out = s.out := rfl

@[simp] theorem decodeDone_k (n : Nat) (s : State) :
    (decodeDone n s).k = s.k := rfl

@[simp] theorem decodeDone_acc (n : Nat) (s : State) :
    (decodeDone n s).acc = s.acc := rfl

@[simp] theorem decodeDone_clen (n : Nat) (s : State) :
    (decodeDone n s).clen = s.clen := rfl

@[simp] theorem decodeDone_mok (n : Nat) (s : State) :
    (decodeDone n s).mok = s.mok := rfl

@[simp] theorem decodeDone_script (n : Nat) (s : State) :
    (decodeDone n s).script = s.script := rfl

@[simp] theorem decodeDone_answers (n : Nat) (s : State) :
    (decodeDone n s).answers = s.answers := rfl

@[simp] theorem decodeDone_freeReads (n : Nat) (s : State) :
    (decodeDone n s).freeReads = s.freeReads := rfl

/-! ### `decodeStart` (R100) -/

@[simp] theorem decodeStart_cfg (s : State) :
    (decodeStart s).cfg = s.cfg := rfl

@[simp] theorem decodeStart_status (s : State) :
    (decodeStart s).status = s.status := rfl

@[simp] theorem decodeStart_pixLen (s : State) :
    (decodeStart s).pixLen = s.pixLen := rfl

@[simp] theorem decodeStart_msgLen (s : State) :
    (decodeStart s).msgLen = s.msgLen := rfl

@[simp] theorem decodeStart_outLen (s : State) :
    (decodeStart s).outLen = s.outLen := rfl

@[simp] theorem decodeStart_pix (s : State) :
    (decodeStart s).pix = s.pix := rfl

@[simp] theorem decodeStart_msg (s : State) :
    (decodeStart s).msg = s.msg := rfl

@[simp] theorem decodeStart_out (s : State) :
    (decodeStart s).out = s.out := rfl

@[simp] theorem decodeStart_k (s : State) :
    (decodeStart s).k = 0 := rfl

@[simp] theorem decodeStart_acc (s : State) :
    (decodeStart s).acc = 0 := rfl

@[simp] theorem decodeStart_clen (s : State) :
    (decodeStart s).clen = 0 := rfl

@[simp] theorem decodeStart_mok (s : State) :
    (decodeStart s).mok = true := rfl

@[simp] theorem decodeStart_script (s : State) :
    (decodeStart s).script = s.script := rfl

@[simp] theorem decodeStart_answers (s : State) :
    (decodeStart s).answers = s.answers := rfl

@[simp] theorem decodeStart_freeReads (s : State) :
    (decodeStart s).freeReads = s.freeReads := rfl

/-! ### `keepByte` (R102) -/

@[simp] theorem keepByte_cfg (s : State) :
    (keepByte s).cfg = s.cfg := rfl

@[simp] theorem keepByte_status (s : State) :
    (keepByte s).status = s.status := rfl

@[simp] theorem keepByte_pixLen (s : State) :
    (keepByte s).pixLen = s.pixLen := rfl

@[simp] theorem keepByte_msgLen (s : State) :
    (keepByte s).msgLen = s.msgLen := rfl

@[simp] theorem keepByte_outLen (s : State) :
    (keepByte s).outLen = s.outLen := rfl

@[simp] theorem keepByte_pix (s : State) :
    (keepByte s).pix = s.pix := rfl

@[simp] theorem keepByte_msg (s : State) :
    (keepByte s).msg = s.msg := rfl

@[simp] theorem keepByte_out (s : State) :
    (keepByte s).out = s.out := rfl

@[simp] theorem keepByte_k (s : State) :
    (keepByte s).k = s.k := rfl

@[simp] theorem keepByte_acc (s : State) :
    (keepByte s).acc = 0 := rfl

@[simp] theorem keepByte_clen (s : State) :
    (keepByte s).clen = s.clen + 1 := rfl

@[simp] theorem keepByte_mok (s : State) :
    (keepByte s).mok = (s.mok && matchesMarker s.clen s.acc) := rfl

@[simp] theorem keepByte_script (s : State) :
    (keepByte s).script = s.script := rfl

@[simp] theorem keepByte_answers (s : State) :
    (keepByte s).answers = s.answers := rfl

@[simp] theorem keepByte_freeReads (s : State) :
    (keepByte s).freeReads = s.freeReads := rfl

/-! ### `resetEvent` (R140) -/

@[simp] theorem resetEvent_cfg (s : State) :
    (resetEvent s).cfg = s.cfg := rfl

@[simp] theorem resetEvent_status (s : State) :
    (resetEvent s).status = { op := .noCommand, code := .ok } := rfl

@[simp] theorem resetEvent_pixLen (s : State) :
    (resetEvent s).pixLen = 0 := rfl

@[simp] theorem resetEvent_msgLen (s : State) :
    (resetEvent s).msgLen = 0 := rfl

@[simp] theorem resetEvent_outLen (s : State) :
    (resetEvent s).outLen = 0 := rfl

@[simp] theorem resetEvent_pix (s : State) :
    (resetEvent s).pix = [] := rfl

@[simp] theorem resetEvent_msg (s : State) :
    (resetEvent s).msg = [] := rfl

@[simp] theorem resetEvent_out (s : State) :
    (resetEvent s).out = [] := rfl

@[simp] theorem resetEvent_k (s : State) :
    (resetEvent s).k = 0 := rfl

@[simp] theorem resetEvent_acc (s : State) :
    (resetEvent s).acc = 0 := rfl

@[simp] theorem resetEvent_clen (s : State) :
    (resetEvent s).clen = 0 := rfl

@[simp] theorem resetEvent_mok (s : State) :
    (resetEvent s).mok = false := rfl

@[simp] theorem resetEvent_script (s : State) :
    (resetEvent s).script = s.script := rfl

@[simp] theorem resetEvent_answers (s : State) :
    (resetEvent s).answers = s.answers := rfl

@[simp] theorem resetEvent_freeReads (s : State) :
    (resetEvent s).freeReads = s.freeReads := rfl

/-- After a reset no byte holds a value (R27, R145). -/
@[simp] theorem resetEvent_read (s : State) (sp : Space) (a : Nat) : ((resetEvent s).mem sp).read a = none := by
  cases sp <;> rfl

/-! ### Memories by space -/

@[simp] theorem mem_pix (s : State) : s.mem .pix = s.pix := rfl

@[simp] theorem mem_msg (s : State) : s.mem .msg = s.msg := rfl

@[simp] theorem mem_out (s : State) : s.mem .out = s.out := rfl

end Sys2Proof.Machine
end

