-- ==== Sys2Proof/Laws/Ops.lean ====
section
/-! SUPPORT. What the shared operations can do: reading a byte, taking a frame bit, storing a text. -/

namespace Sys2Proof.Machine

/-! ### Reading one byte -/

/-- A read changes nothing but the count of free values drawn (R33). -/
theorem readByte_state (sp : Space) (a : Nat) (s : State) :
    (readByte sp a s).2 = { s with freeReads := (readByte sp a s).2.freeReads } := by
  unfold readByte
  split <;> rfl

/-- A read of a written byte returns it and changes nothing. -/
theorem readByte_of_read {sp : Space} {a : Nat} {s : State} {v : Byte} (h : (s.mem sp).read a = some v) :
    readByte sp a s = (v, s) := by
  simp [readByte, h]

/-- A read of a byte not written since reset returns the next free value and counts it (R145). -/
theorem readByte_of_unwritten {sp : Space} {a : Nat} {s : State} (h : (s.mem sp).read a = none) :
    readByte sp a s = (Config.freeByte s.freeReads, { s with freeReads := s.freeReads + 1 }) := by
  simp [readByte, h]

@[simp] theorem readByte_cfg (sp : Space) (a : Nat) (s : State) : (readByte sp a s).2.cfg = s.cfg := by
  rw [readByte_state sp a s]

@[simp] theorem readByte_status (sp : Space) (a : Nat) (s : State) : (readByte sp a s).2.status = s.status := by
  rw [readByte_state sp a s]

@[simp] theorem readByte_pixLen (sp : Space) (a : Nat) (s : State) : (readByte sp a s).2.pixLen = s.pixLen := by
  rw [readByte_state sp a s]

@[simp] theorem readByte_msgLen (sp : Space) (a : Nat) (s : State) : (readByte sp a s).2.msgLen = s.msgLen := by
  rw [readByte_state sp a s]

@[simp] theorem readByte_outLen (sp : Space) (a : Nat) (s : State) : (readByte sp a s).2.outLen = s.outLen := by
  rw [readByte_state sp a s]

@[simp] theorem readByte_pix (sp : Space) (a : Nat) (s : State) : (readByte sp a s).2.pix = s.pix := by
  rw [readByte_state sp a s]

@[simp] theorem readByte_msg (sp : Space) (a : Nat) (s : State) : (readByte sp a s).2.msg = s.msg := by
  rw [readByte_state sp a s]

@[simp] theorem readByte_out (sp : Space) (a : Nat) (s : State) : (readByte sp a s).2.out = s.out := by
  rw [readByte_state sp a s]

@[simp] theorem readByte_k (sp : Space) (a : Nat) (s : State) : (readByte sp a s).2.k = s.k := by
  rw [readByte_state sp a s]

@[simp] theorem readByte_acc (sp : Space) (a : Nat) (s : State) : (readByte sp a s).2.acc = s.acc := by
  rw [readByte_state sp a s]

@[simp] theorem readByte_clen (sp : Space) (a : Nat) (s : State) : (readByte sp a s).2.clen = s.clen := by
  rw [readByte_state sp a s]

@[simp] theorem readByte_mok (sp : Space) (a : Nat) (s : State) : (readByte sp a s).2.mok = s.mok := by
  rw [readByte_state sp a s]

@[simp] theorem readByte_script (sp : Space) (a : Nat) (s : State) : (readByte sp a s).2.script = s.script := by
  rw [readByte_state sp a s]

@[simp] theorem readByte_answers (sp : Space) (a : Nat) (s : State) : (readByte sp a s).2.answers = s.answers := by
  rw [readByte_state sp a s]

/-! ### Taking a frame bit -/

theorem readFrameByte_state (j : Nat) (s : State) :
    (readFrameByte j s).2 = { s with freeReads := (readFrameByte j s).2.freeReads } := by
  unfold readFrameByte
  split
  · rfl
  · split
    · exact readByte_state .msg (j - 6) s
    · rfl

theorem readFrameBit_state (j : Nat) (s : State) :
    (readFrameBit j s).2 = { s with freeReads := (readFrameBit j s).2.freeReads } :=
  readFrameByte_state (j / 8) s

@[simp] theorem readFrameByte_cfg (j : Nat) (s : State) : (readFrameByte j s).2.cfg = s.cfg := by
  rw [readFrameByte_state j s]

@[simp] theorem readFrameByte_status (j : Nat) (s : State) : (readFrameByte j s).2.status = s.status := by
  rw [readFrameByte_state j s]

@[simp] theorem readFrameByte_pixLen (j : Nat) (s : State) : (readFrameByte j s).2.pixLen = s.pixLen := by
  rw [readFrameByte_state j s]

@[simp] theorem readFrameByte_msgLen (j : Nat) (s : State) : (readFrameByte j s).2.msgLen = s.msgLen := by
  rw [readFrameByte_state j s]

@[simp] theorem readFrameByte_outLen (j : Nat) (s : State) : (readFrameByte j s).2.outLen = s.outLen := by
  rw [readFrameByte_state j s]

@[simp] theorem readFrameByte_pix (j : Nat) (s : State) : (readFrameByte j s).2.pix = s.pix := by
  rw [readFrameByte_state j s]

@[simp] theorem readFrameByte_msg (j : Nat) (s : State) : (readFrameByte j s).2.msg = s.msg := by
  rw [readFrameByte_state j s]

@[simp] theorem readFrameByte_out (j : Nat) (s : State) : (readFrameByte j s).2.out = s.out := by
  rw [readFrameByte_state j s]

@[simp] theorem readFrameByte_k (j : Nat) (s : State) : (readFrameByte j s).2.k = s.k := by
  rw [readFrameByte_state j s]

@[simp] theorem readFrameByte_acc (j : Nat) (s : State) : (readFrameByte j s).2.acc = s.acc := by
  rw [readFrameByte_state j s]

@[simp] theorem readFrameByte_clen (j : Nat) (s : State) : (readFrameByte j s).2.clen = s.clen := by
  rw [readFrameByte_state j s]

@[simp] theorem readFrameByte_mok (j : Nat) (s : State) : (readFrameByte j s).2.mok = s.mok := by
  rw [readFrameByte_state j s]

@[simp] theorem readFrameByte_script (j : Nat) (s : State) : (readFrameByte j s).2.script = s.script := by
  rw [readFrameByte_state j s]

@[simp] theorem readFrameByte_answers (j : Nat) (s : State) : (readFrameByte j s).2.answers = s.answers := by
  rw [readFrameByte_state j s]

@[simp] theorem readFrameBit_cfg (j : Nat) (s : State) : (readFrameBit j s).2.cfg = s.cfg := by
  rw [readFrameBit_state j s]

@[simp] theorem readFrameBit_status (j : Nat) (s : State) : (readFrameBit j s).2.status = s.status := by
  rw [readFrameBit_state j s]

@[simp] theorem readFrameBit_pixLen (j : Nat) (s : State) : (readFrameBit j s).2.pixLen = s.pixLen := by
  rw [readFrameBit_state j s]

@[simp] theorem readFrameBit_msgLen (j : Nat) (s : State) : (readFrameBit j s).2.msgLen = s.msgLen := by
  rw [readFrameBit_state j s]

@[simp] theorem readFrameBit_outLen (j : Nat) (s : State) : (readFrameBit j s).2.outLen = s.outLen := by
  rw [readFrameBit_state j s]

@[simp] theorem readFrameBit_pix (j : Nat) (s : State) : (readFrameBit j s).2.pix = s.pix := by
  rw [readFrameBit_state j s]

@[simp] theorem readFrameBit_msg (j : Nat) (s : State) : (readFrameBit j s).2.msg = s.msg := by
  rw [readFrameBit_state j s]

@[simp] theorem readFrameBit_out (j : Nat) (s : State) : (readFrameBit j s).2.out = s.out := by
  rw [readFrameBit_state j s]

@[simp] theorem readFrameBit_k (j : Nat) (s : State) : (readFrameBit j s).2.k = s.k := by
  rw [readFrameBit_state j s]

@[simp] theorem readFrameBit_acc (j : Nat) (s : State) : (readFrameBit j s).2.acc = s.acc := by
  rw [readFrameBit_state j s]

@[simp] theorem readFrameBit_clen (j : Nat) (s : State) : (readFrameBit j s).2.clen = s.clen := by
  rw [readFrameBit_state j s]

@[simp] theorem readFrameBit_mok (j : Nat) (s : State) : (readFrameBit j s).2.mok = s.mok := by
  rw [readFrameBit_state j s]

@[simp] theorem readFrameBit_script (j : Nat) (s : State) : (readFrameBit j s).2.script = s.script := by
  rw [readFrameBit_state j s]

@[simp] theorem readFrameBit_answers (j : Nat) (s : State) : (readFrameBit j s).2.answers = s.answers := by
  rw [readFrameBit_state j s]

/-- With the message `m` written in MSG the machine produces byte `j` of `Frame(m)`, and reads nothing unwritten (R73). -/
theorem readFrameByte_of_message {s : State} {m : List Byte} (hl : s.msgLen = m.length)
    (hm : ∀ i, i < m.length → s.msg.read i = m[i]?) (j : Nat) :
    readFrameByte j s = ((frame m).getD j terminator, s) := by
  have h6 : marker.length = 6 := rfl
  unfold readFrameByte frame
  split
  case isTrue h =>
    rw [List.getD_append _ _ _ _ (by simp [h6]; omega), List.getD_append _ _ _ _ (by omega)]
  case isFalse h =>
    split
    case isTrue h' =>
      have hlt : j - 6 < m.length := by omega
      have hr : (s.mem .msg).read (j - 6) = some m[j - 6] := by simpa [List.getElem?_eq_getElem hlt] using hm _ hlt
      rw [readByte_of_read hr, List.getD_append _ _ _ _ (by simp [h6]; omega),
        List.getD_append_right _ _ _ _ (by omega), h6, List.getD_eq_getElem _ _ hlt]
    case isFalse h' =>
      rw [List.getD_append_right _ _ _ _ (by simp [h6]; omega)]
      cases hj : j - (marker ++ m).length <;> rfl

/-- With the message `m` written in MSG the machine produces bit `k` of `FrameBits(m)` (R73). -/
theorem readFrameBit_of_message {s : State} {m : List Byte} (hl : s.msgLen = m.length)
    (hm : ∀ i, i < m.length → s.msg.read i = m[i]?) (k : Nat) : readFrameBit k s = (frameBit m k, s) := by
  simp only [readFrameBit, readFrameByte_of_message hl hm, frameBit]

/-! ### Storing a text in OUT -/

/-- Storing a text changes nothing but OUT. -/
theorem writeText_state (a : Nat) (vs : List Byte) (s : State) :
    writeText a vs s = { s with out := (writeText a vs s).out } := by
  induction vs generalizing a s with
  | nil => rfl
  | cons v vs ih =>
    rw [writeText, ih]
    rfl

/-- The bytes of OUT after a text is stored from `a` on: the text's, and the old ones elsewhere (R106). -/
theorem writeText_read (a b : Nat) (vs : List Byte) (s : State) :
    (writeText a vs s).out.read b = if a ≤ b ∧ b < a + vs.length then vs[b - a]? else s.out.read b := by
  induction vs generalizing a s with
  | nil => rw [writeText, if_neg (by simp)]
  | cons v vs ih =>
    rw [writeText, ih, writeOut_out, Memory.read_write]
    by_cases hb : b = a
    · subst hb
      simp
    · rw [if_neg hb]
      by_cases h : a ≤ b ∧ b < a + (vs.length + 1)
      · obtain ⟨d, rfl⟩ : ∃ d, b = a + (d + 1) := ⟨b - a - 1, by omega⟩
        rw [if_pos (by omega), if_pos (by simpa using h)]
        simp [show a + (d + 1) - (a + 1) = d by omega, show a + (d + 1) - a = d + 1 by omega]
      · rw [if_neg (by omega), if_neg (by simpa using h)]

/-- Storing a text keeps OUT canonical. -/
theorem writeText_wf {s : State} (h : s.out.Wf) (a : Nat) (vs : List Byte) : (writeText a vs s).out.Wf := by
  induction vs generalizing a s with
  | nil => exact h
  | cons v vs ih => exact ih (s := writeByte .out a v s) (Memory.write_wf h a v) (a + 1)

/-- Storing a text that fits keeps every byte of OUT inside it. -/
theorem writeText_within {s : State} {n : Nat} (h : s.out.Within n) {a : Nat} {vs : List Byte}
    (hn : a + vs.length ≤ n) : (writeText a vs s).out.Within n := by
  induction vs generalizing a s with
  | nil => exact h
  | cons v vs ih =>
    rw [List.length_cons] at hn
    exact ih (s := writeByte .out a v s) (Memory.write_within h (by omega) v) (by omega)

end Sys2Proof.Machine
end

