-- ==== Sys2Proof/Laws/Decoder.lean ====
section
/-! SUPPORT. What DECODE can do: one unpack read, the unpacking, the whole command. -/

namespace Sys2Proof.Machine

/-! ### Validation -/

theorem decValid_iff (s : State) : decValid s = true ↔ s.pixLen % 4 = 0 ∧ s.pixLen ≤ s.cfg.pixMax := by
  simp [decValid]

/-! ### Unpacking -/

/-- An unpack read changes ACC, the cursor and the count of free values, and nothing else. -/
theorem unpackRead_state (s : State) :
    unpackRead s = { s with acc := (unpackRead s).acc, k := s.k + 1, freeReads := (unpackRead s).freeReads } := by
  have h := readByte_state .pix (chanAddr s.k) s
  simp only [unpackRead]
  rw [h]

/-- The bit of a written channel goes into ACC from the right, and no free value is drawn (R102). -/
theorem unpackRead_of_read {s : State} {v : Byte} (h : s.pix.read (chanAddr s.k) = some v) :
    unpackRead s = { s with acc := shiftBit s.acc v, k := s.k + 1 } := by
  simp only [unpackRead, readByte_of_read (sp := .pix) h]

/-- Unpacking changes the working registers and the count of free values, and nothing else. -/
theorem unpackSteps_state (n : Nat) (cs : List Byte) (s : State) :
    (unpackSteps n cs s).2 =
      { s with k := (unpackSteps n cs s).2.k, acc := (unpackSteps n cs s).2.acc,
               clen := (unpackSteps n cs s).2.clen, mok := (unpackSteps n cs s).2.mok,
               freeReads := (unpackSteps n cs s).2.freeReads } := by
  induction n generalizing cs s with
  | zero => rfl
  | succ n ih =>
    have hr := unpackRead_state s
    simp only [unpackSteps]
    split
    · split
      · rw [hr]
      · rw [ih]
        simp only [keepByte]
        rw [hr]
    · rw [ih]
      rw [hr]

/-- The cursor after unpacking has visited at most the channels it was given (R20). -/
theorem unpackSteps_k_le (n : Nat) (cs : List Byte) (s : State) : (unpackSteps n cs s).2.k ≤ s.k + n := by
  induction n generalizing cs s with
  | zero => exact Nat.le_refl _
  | succ n ih =>
    have hk : (unpackRead s).k = s.k + 1 := by rw [unpackRead_state]
    simp only [unpackSteps]
    split
    · split
      · rw [hk]
        omega
      · refine Nat.le_trans (ih _ _) ?_
        rw [keepByte_k, hk]
        omega
    · refine Nat.le_trans (ih _ _) ?_
      rw [hk]
      omega

/-- CLEN counts the bytes collected (R22). -/
theorem unpackSteps_clen (n : Nat) (cs : List Byte) (s : State) (h : s.clen = cs.length) :
    (unpackSteps n cs s).2.clen = (unpackSteps n cs s).1.length := by
  induction n generalizing cs s with
  | zero => exact h
  | succ n ih =>
    have hc : (unpackRead s).clen = s.clen := by rw [unpackRead_state]
    simp only [unpackSteps]
    split
    · split
      · rw [hc, h]
      · exact ih _ _ (by simp [hc, h])
    · exact ih _ _ (by rw [hc, h])

/-- No collected byte is zero (R103). -/
theorem unpackSteps_ne_zero (n : Nat) (cs : List Byte) (s : State) (h : ∀ v ∈ cs, v ≠ 0) :
    ∀ v ∈ (unpackSteps n cs s).1, v ≠ 0 := by
  induction n generalizing cs s with
  | zero => exact h
  | succ n ih =>
    simp only [unpackSteps]
    split
    · split
      · exact h
      · rename_i hz
        refine ih _ _ (fun v hv => ?_)
        rcases List.mem_append.1 hv with hv | hv
        · exact h v hv
        · rw [List.mem_singleton.1 hv]
          exact hz
    · exact ih _ _ h

/-- Every collected byte took eight channels: with `cs` collected from the channels before the cursor, the bytes after
unpacking number at most an eighth of the channels (R104). -/
theorem unpackSteps_length_le (n : Nat) (cs : List Byte) (s : State) (h : 8 * cs.length ≤ s.k) :
    8 * (unpackSteps n cs s).1.length ≤ s.k + n := by
  suffices hs : ∀ (n : Nat) (cs : List Byte) (s : State), cs.length ≤ s.k / 8 →
      (unpackSteps n cs s).1.length ≤ (s.k + n) / 8 by
    have := hs n cs s (by omega)
    omega
  intro n
  induction n with
  | zero => exact fun cs s h => h
  | succ n ih =>
    intro cs s h
    have hk : (unpackRead s).k = s.k + 1 := by rw [unpackRead_state]
    simp only [unpackSteps]
    split
    · split
      · simp only
        omega
      · refine Nat.le_trans (ih _ _ ?_) ?_
        · rw [List.length_append, keepByte_k, List.length_singleton, hk]
          omega
        · rw [keepByte_k, hk]
          omega
    · refine Nat.le_trans (ih _ _ ?_) ?_
      · rw [hk]
        omega
      · rw [hk]
        omega

/-! ### The command -/

/-- What DECODE does once the lengths are valid: the marker check decides between delivery and NoHiddenMessage; an
invalid length ends it before any byte is read (R100, R101). -/
theorem execDecode_cases (s : State) :
    (decValid s = false ∧ execDecode s = .next (raise .decode .invalidInput (decodeStart s))) ∨
      (decValid s = true ∧ markerOk (unpack (decodeStart s)).1 = false ∧
        execDecode s = .next (raise .decode .noHiddenMessage (unpack (decodeStart s)).2)) ∨
      (decValid s = true ∧ markerOk (unpack (decodeStart s)).1 = true ∧
        execDecode s = deliver (unpack (decodeStart s)).1 (unpack (decodeStart s)).2) := by
  have h : decValid (decodeStart s) = decValid s := rfl
  simp only [execDecode, h]
  cases hv : decValid s
  · simp
  · cases hm : markerOk (unpack (decodeStart s)).1 <;> simp

/-- The candidate string of DECODE has at most an eighth of the usable channels (R104). -/
theorem unpack_length_le (s : State) :
    (unpack (decodeStart s)).1.length ≤ capBytes (pixelCount s.pixLen) := by
  have h := unpackSteps_length_le (capBits (pixelCount s.pixLen)) [] (decodeStart s) (by simp)
  simp only [decodeStart_k, Nat.zero_add] at h
  simp only [unpack, decodeStart_pixLen, capBytes]
  omega

/-- Unpacking leaves everything but the working registers and the count of free values. -/
theorem unpack_state (s : State) :
    (unpack s).2 =
      { s with k := (unpack s).2.k, acc := (unpack s).2.acc, clen := (unpack s).2.clen, mok := (unpack s).2.mok,
               freeReads := (unpack s).2.freeReads } :=
  unpackSteps_state _ _ _

/-- Delivery that fits answers a next state (R106). -/
theorem deliver_eq {cs : List Byte} {s : State} (h : (cs.drop 6).length ≤ s.cfg.outMax) :
    deliver cs s = .next (decodeDone (cs.drop 6).length (writeText 0 (cs.drop 6) s)) := by
  simp only [deliver, if_pos h]

/-- Delivery that answers a next state fitted. -/
theorem deliver_next {cs : List Byte} {s t : State} (h : deliver cs s = .next t) :
    (cs.drop 6).length ≤ s.cfg.outMax ∧ t = decodeDone (cs.drop 6).length (writeText 0 (cs.drop 6) s) := by
  simp only [deliver] at h
  split at h
  case isTrue hl =>
    injection h with h
    exact ⟨hl, h.symm⟩
  case isFalse hl => cases h

end Sys2Proof.Machine
end

