-- ==== Sys2Proof/Laws/Encoder.lean ====
section
/-! SUPPORT. What ENCODE can do: its checks, one pack step, many pack steps, the whole command. -/

namespace Sys2Proof.Machine

/-! ### The checks -/

/-- The check of ENCODE as the conditions of R81, R82, R84 in the order of R125. -/
theorem encodeCheck_eq (s : State) :
    encodeCheck s =
      if s.pixLen % 4 ≠ 0 ∨ s.cfg.pixMax < s.pixLen ∨ s.cfg.msgMax < s.msgLen then some .invalidInput
      else if s.msgLen = 0 then some .emptyMessage
      else if 8 * (s.msgLen + 7) > 3 * (s.pixLen / 4) then some .capacityExceeded
      else none := by
  have hv : encValid s = false ↔ s.pixLen % 4 ≠ 0 ∨ s.cfg.pixMax < s.pixLen ∨ s.cfg.msgMax < s.msgLen := by
    simp only [encValid, Bool.and_eq_false_iff, decide_eq_false_iff_not]
    omega
  have hf : frameFits s = false ↔ 8 * (s.msgLen + 7) > 3 * (s.pixLen / 4) := by
    rw [frameFits, decide_eq_false_iff_not]
    simp only [nbits, frameLen, capBits, pixelCount]
    omega
  simp only [encodeCheck, Bool.not_eq_true', hv, hf]

/-- The check reads the parameters and the two length registers only. -/
theorem encodeCheck_congr {s t : State} (hc : t.cfg = s.cfg) (hp : t.pixLen = s.pixLen) (hm : t.msgLen = s.msgLen) :
    encodeCheck t = encodeCheck s := by
  simp only [encodeCheck_eq, hc, hp, hm]

/-! ### Packing -/

/-- A pack step changes PIX, the cursor and the count of free values, and nothing else. -/
theorem packStep_state (s : State) :
    packStep s = { s with pix := (packStep s).pix, k := s.k + 1, freeReads := (packStep s).freeReads } := by
  have h1 := readByte_state .pix (chanAddr s.k) s
  have h2 := readFrameBit_state s.k (readByte .pix (chanAddr s.k) s).2
  simp only [packStep, writeByte]
  rw [h2, h1]

/-- The PIX a pack step leaves: one byte written, at the channel the cursor points at (R85). -/
theorem packStep_pix (s : State) :
    (packStep s).pix =
      s.pix.write (chanAddr s.k)
        (packBit (readByte .pix (chanAddr s.k) s).1 (readFrameBit s.k (readByte .pix (chanAddr s.k) s).2).1) := by
  simp [packStep]

/-- Pack steps change PIX, the cursor and the count of free values, and nothing else. -/
theorem packSteps_state (n : Nat) (s : State) :
    packSteps n s =
      { s with pix := (packSteps n s).pix, k := s.k + n, freeReads := (packSteps n s).freeReads } := by
  induction n generalizing s with
  | zero => rfl
  | succ n ih =>
    simp only [packSteps]
    rw [ih (packStep s), packStep_state s]
    simp only [Nat.add_assoc, Nat.add_comm 1 n]

/-- One more pack step at the end. -/
theorem packSteps_succ (n : Nat) (s : State) : packSteps (n + 1) s = packStep (packSteps n s) := by
  induction n generalizing s with
  | zero => rfl
  | succ n ih => rw [packSteps, ih (packStep s), packSteps]

/-- Pack steps leave every byte of PIX alone but those of the channels they visit. -/
theorem packSteps_read_other (n : Nat) (s : State) (a : Nat)
    (h : ∀ k, s.k ≤ k → k < s.k + n → a ≠ chanAddr k) : (packSteps n s).pix.read a = s.pix.read a := by
  induction n generalizing s with
  | zero => rfl
  | succ n ih =>
    have hk : (packStep s).k = s.k + 1 := by rw [packStep_state]
    rw [packSteps, ih (packStep s) (fun k h1 h2 => h k (by omega) (by omega)), packStep_pix,
      Memory.read_write_other _ _ (h s.k (by omega) (by omega))]

/-- Pack steps keep PIX canonical. -/
theorem packSteps_wf (n : Nat) {s : State} (h : s.pix.Wf) : (packSteps n s).pix.Wf := by
  induction n generalizing s with
  | zero => exact h
  | succ n ih => exact ih (by rw [packStep_pix]; exact Memory.write_wf h _ _)

/-- Pack steps at channels inside a memory keep every byte inside it. -/
theorem packSteps_within (n : Nat) {s : State} {size : Nat} (h : s.pix.Within size)
    (hk : ∀ k, s.k ≤ k → k < s.k + n → chanAddr k < size) : (packSteps n s).pix.Within size := by
  induction n generalizing s with
  | zero => exact h
  | succ n ih =>
    have hk1 : (packStep s).k = s.k + 1 := by rw [packStep_state]
    refine ih (s := packStep s) ?_ (fun k h1 h2 => hk k (by omega) (by omega))
    rw [packStep_pix]
    exact Memory.write_within h (hk s.k (by omega) (by omega)) _

/-! ### The command -/

/-- What ENCODE does: it ends with the error the check finds, or it packs the frame (R80). -/
theorem execEncode_eq (s : State) :
    execEncode s =
      match encodeCheck s with
      | some e => .next (raise .encode e (encodeStart s))
      | none => .next (encodeDone (packSteps (nbits s.msgLen) (encodeStart s))) := by
  have h : encodeCheck (encodeStart s) = encodeCheck s := encodeCheck_congr rfl rfl rfl
  simp only [execEncode, h, pack]
  rfl

end Sys2Proof.Machine
end

