-- ==== Sys2Proof/Laws/Flags.lean ====
section
/-! SUPPORT. The STATUS words of spec/30_encoding.md R55. -/

namespace Sys2Proof.Machine

/-- Two STATUS values with the same word are the same: no two meanings share a number. -/
theorem Status.word_injective {st st' : Status} (h : st.word = st'.word) : st = st' := by
  obtain ⟨op, code⟩ := st
  obtain ⟨op', code'⟩ := st'
  revert h
  rcases code with _ | e <;> rcases code' with _ | e' <;> cases op <;> cases op' <;>
    first
    | (cases e <;> cases e' <;> decide)
    | (cases e <;> decide)
    | (cases e' <;> decide)
    | decide

theorem Status.word_none : ({ op := .noCommand, code := .ok } : Status).word = 0x00 := by decide

theorem Status.word_encode_ok : ({ op := .encode, code := .ok } : Status).word = 0x10 := by decide

theorem Status.word_encode_invalid : ({ op := .encode, code := .error .invalidInput } : Status).word = 0x11 := by decide

theorem Status.word_encode_empty : ({ op := .encode, code := .error .emptyMessage } : Status).word = 0x12 := by decide

theorem Status.word_encode_capacity : ({ op := .encode, code := .error .capacityExceeded } : Status).word = 0x13 := by
  decide

theorem Status.word_decode_ok : ({ op := .decode, code := .ok } : Status).word = 0x20 := by decide

theorem Status.word_decode_invalid : ({ op := .decode, code := .error .invalidInput } : Status).word = 0x21 := by decide

theorem Status.word_decode_none : ({ op := .decode, code := .error .noHiddenMessage } : Status).word = 0x24 := by decide

theorem Status.word_illegal : ({ op := .illegal, code := .error .invalidInput } : Status).word = 0x31 := by decide

end Sys2Proof.Machine
end

