-- ==== Sys2Proof/Laws/PerInstr.lean ====
section
/-! SUPPORT. Statements made per command, one lemma for each constructor of Instr. -/

namespace Sys2Proof.Laws.CommandWord

/-- A command's word is one byte with every bit above bit 7 zero, is not zero, and is the command's own: no other value
decodes to it (spec/30_encoding.md R50 to R53). -/
def Statement (i : Instr) : Prop :=
  i.wf = true ∧ encodeWord i ≠ 0 ∧ encodeWord i < 256 ∧ decodeTableWord 8 (encodeWord i) = some i

theorem encode : Statement .encode := by
  refine ⟨rfl, ?_, ?_, ?_⟩ <;> decide

theorem decode : Statement .decode := by
  refine ⟨rfl, ?_, ?_, ?_⟩ <;> decide

end Sys2Proof.Laws.CommandWord
end

