-- ==== Sys2Proof/Laws/Step.lean ====
section
/-! SUPPORT. What a step can do, said once: which access it made and what that access did. -/

namespace Sys2Proof.Machine

/-- A step makes the host's next access, or is idle. -/
theorem step_cases (s : State) :
    (s.script = [] ∧ step s = .next s) ∨
      ∃ a rest, s.script = a :: rest ∧ step s = hostAccess a { s with script := rest } := by
  unfold step
  cases h : s.script with
  | nil => exact .inl ⟨rfl, rfl⟩
  | cons a rest => exact .inr ⟨a, rest, rfl, rfl⟩

/-- A step with an access pending makes it. -/
theorem step_of_script {s : State} {a : HostAccess} {rest : List HostAccess} (h : s.script = a :: rest) :
    step s = hostAccess a { s with script := rest } := by
  unfold step
  rw [h]

theorem core_run_zero (s : State) : core.run 0 s = .next s := rfl

/-- A run whose first step answers a next state goes on from it. -/
theorem core_run_succ {n : Nat} {s t : State} (h : step s = .next t) : core.run (n + 1) s = core.run n t := by
  have h' : core.step s = .next t := h
  simp only [Host.Core.run, h']

/-- What an access that answers a next state has done, access by access: a register read, an ignored write, a length
register, a byte write, a byte read, reset, a reserved command, ENCODE or DECODE. -/
theorem hostAccess_cases {a : HostAccess} {s t : State} (h : hostAccess a s = .next t) :
    (∃ i n, a = .readReg i ∧ regValue i s = some n ∧ t = answer n s) ∨
      (∃ v, (a = .writeReg 1 v ∨ a = .writeReg 4 v) ∧ t = s) ∨
      (∃ v, a = .writeReg 2 v ∧ v < 2 ^ s.cfg.lenW ∧ t = { s with pixLen := v }) ∨
      (∃ v, a = .writeReg 3 v ∧ v < 2 ^ s.cfg.lenW ∧ t = { s with msgLen := v }) ∨
      (∃ sp b v, a = .writeByte sp b v ∧ b < s.cfg.size sp ∧
        ((sp ≠ .out ∧ t = writeByte sp b v s) ∨ (sp = .out ∧ t = s))) ∨
      (∃ sp b, a = .readByte sp b ∧ b < s.cfg.size sp ∧ t = answer (readByte sp b s).1.toNat (readByte sp b s).2) ∨
      (a = .reset ∧ t = resetEvent s) ∨
      (∃ v e, a = .writeReg 0 v ∧ decodeWord v = .error e ∧ t = setStatus .illegal (.error .invalidInput) s) ∨
      ∃ v i, a = .writeReg 0 v ∧ decodeWord v = .ok i ∧ exec i s = .next t := by
  cases a with
  | readReg i =>
    simp only [hostAccess, readReg] at h
    split at h
    case h_1 n hn =>
      injection h with h
      exact .inl ⟨i, n, rfl, hn, h.symm⟩
    case h_2 => cases h
  | reset =>
    injection h with h
    exact .inr (.inr (.inr (.inr (.inr (.inr (.inl ⟨rfl, h.symm⟩))))))
  | readByte sp b =>
    simp only [hostAccess, hostReadByte] at h
    split at h
    case isTrue hb =>
      injection h with h
      exact .inr (.inr (.inr (.inr (.inr (.inl ⟨sp, b, rfl, hb, h.symm⟩)))))
    case isFalse => cases h
  | writeByte sp b v =>
    simp only [hostAccess, hostWriteByte] at h
    split at h
    case isTrue hb =>
      refine .inr (.inr (.inr (.inr (.inl ⟨sp, b, v, rfl, hb, ?_⟩))))
      cases sp <;> injection h with h
      · exact .inl ⟨by decide, h.symm⟩
      · exact .inl ⟨by decide, h.symm⟩
      · exact .inr ⟨rfl, h.symm⟩
    case isFalse => cases h
  | writeReg i v =>
    simp only [hostAccess, writeReg] at h
    split at h
    · unfold runCommand at h
      split at h
      case h_1 j hj => exact .inr (.inr (.inr (.inr (.inr (.inr (.inr (.inr ⟨v, j, rfl, hj, h⟩)))))))
      case h_2 e he =>
        injection h with h
        exact .inr (.inr (.inr (.inr (.inr (.inr (.inr (.inl ⟨v, e, rfl, he, h.symm⟩)))))))
    · injection h with h
      exact .inr (.inl ⟨v, .inl rfl, h.symm⟩)
    · unfold writeLength at h
      split at h
      case isTrue hv =>
        injection h with h
        exact .inr (.inr (.inl ⟨v, rfl, hv, h.symm⟩))
      case isFalse => cases h
    · unfold writeLength at h
      split at h
      case isTrue hv =>
        injection h with h
        exact .inr (.inr (.inr (.inl ⟨v, rfl, hv, h.symm⟩)))
      case isFalse => cases h
    · injection h with h
      exact .inr (.inl ⟨v, .inr rfl, h.symm⟩)
    · cases h

/-- What a command that answers a next state has done: ENCODE failed its check or packed the frame; DECODE failed its
check, found no Marker, or delivered a text. -/
theorem exec_cases {i : Instr} {s t : State} (h : exec i s = .next t) :
    (∃ e, i = .encode ∧ encodeCheck s = some e ∧ t = raise .encode e (encodeStart s)) ∨
      (i = .encode ∧ encodeCheck s = none ∧ t = encodeDone (packSteps (nbits s.msgLen) (encodeStart s))) ∨
      (i = .decode ∧ decValid s = false ∧ t = raise .decode .invalidInput (decodeStart s)) ∨
      (i = .decode ∧ decValid s = true ∧ markerOk (unpack (decodeStart s)).1 = false ∧
        t = raise .decode .noHiddenMessage (unpack (decodeStart s)).2) ∨
      (i = .decode ∧ decValid s = true ∧ markerOk (unpack (decodeStart s)).1 = true ∧
        ((unpack (decodeStart s)).1.drop 6).length ≤ (unpack (decodeStart s)).2.cfg.outMax ∧
        t = decodeDone ((unpack (decodeStart s)).1.drop 6).length
          (writeText 0 ((unpack (decodeStart s)).1.drop 6) (unpack (decodeStart s)).2)) := by
  cases i with
  | encode =>
    change execEncode s = .next t at h
    rw [execEncode_eq] at h
    split at h
    case h_1 e he =>
      injection h with h
      exact .inl ⟨e, rfl, he, h.symm⟩
    case h_2 he =>
      injection h with h
      exact .inr (.inl ⟨rfl, he, h.symm⟩)
  | decode =>
    change execDecode s = .next t at h
    rcases execDecode_cases s with ⟨hv, he⟩ | ⟨hv, hm, he⟩ | ⟨hv, hm, he⟩
    · rw [he] at h
      injection h with h
      exact .inr (.inr (.inl ⟨rfl, hv, h.symm⟩))
    · rw [he] at h
      injection h with h
      exact .inr (.inr (.inr (.inl ⟨rfl, hv, hm, h.symm⟩)))
    · rw [he] at h
      obtain ⟨hl, ht⟩ := deliver_next h
      exact .inr (.inr (.inr (.inr ⟨rfl, hv, hm, hl, ht⟩)))

end Sys2Proof.Machine
end

