-- ==== Sys2Proof/Laws/StepLevel.lean ====
section
/-! SUPPORT. What one micro step of the step-level commands does in each phase. -/

namespace Sys2Proof.Machine

@[simp] theorem microRun_zero (f : Micro → Micro) (m : Micro) : microRun f 0 m = m := rfl

theorem microRun_succ (f : Micro → Micro) (n : Nat) (m : Micro) : microRun f (n + 1) m = microRun f n (f m) := rfl

@[simp] theorem microRun_one (f : Micro → Micro) (m : Micro) : microRun f 1 m = f m := rfl

/-- Micro steps can be cut anywhere. -/
theorem microRun_add (f : Micro → Micro) (a b : Nat) (m : Micro) :
    microRun f (a + b) m = microRun f b (microRun f a m) := by
  induction a generalizing m with
  | zero => rw [Nat.zero_add, microRun_zero]
  | succ a ih => rw [Nat.succ_add, microRun_succ, microRun_succ, ih]

theorem encodeMicro_check_error {s : State} {e : ErrorKind} (h : encodeCheck s = some e) :
    encodeMicro { phase := .check, state := s } = { phase := .done, state := raise .encode e (encodeStart s) } := by
  have h' : encodeCheck (encodeStart s) = some e := (encodeCheck_congr rfl rfl rfl).trans h
  simp only [encodeMicro, h']

theorem encodeMicro_check_pass {s : State} (h : encodeCheck s = none) :
    encodeMicro { phase := .check, state := s } = { phase := .work, state := encodeStart s } := by
  have h' : encodeCheck (encodeStart s) = none := (encodeCheck_congr rfl rfl rfl).trans h
  simp only [encodeMicro, h']

theorem encodeMicro_work (s : State) :
    encodeMicro { phase := .work, state := s } =
      { phase := if s.k + 1 < nbits s.msgLen then .work else .complete, state := packStep s } := rfl

theorem encodeMicro_complete (s : State) :
    encodeMicro { phase := .complete, state := s } = { phase := .done, state := encodeDone s } := rfl

theorem decodeMicro_check_error {s : State} (h : decValid s = false) :
    decodeMicro { phase := .check, state := s } =
      { phase := .done, state := raise .decode .invalidInput (decodeStart s) } := by
  simp [decodeMicro, h]

theorem decodeMicro_check_pass {s : State} (h : decValid s = true) :
    decodeMicro { phase := .check, state := s } = { phase := .work, state := decodeStart s } := by
  simp [decodeMicro, h]

theorem decodeMicro_work {s : State} (h : s.k < capBits (pixelCount s.pixLen)) :
    decodeMicro { phase := .work, state := s } = unpackMicro s := by
  simp [decodeMicro, h]

theorem decodeMicro_exhausted {s : State} (h : capBits (pixelCount s.pixLen) ≤ s.k) :
    decodeMicro { phase := .work, state := s } = { phase := .complete, state := s } := by
  simp [decodeMicro, Nat.not_lt.2 h]

theorem decodeMicro_complete (s : State) :
    decodeMicro { phase := .complete, state := s } = { phase := .done, state := decodeComplete s } := rfl

end Sys2Proof.Machine
end

