-- ==== Sys2Proof/Tests/Slice0.lean ====
section
/-! SUPPORT. Own tests: words written out from the encodings, ill-formed terms refused, the spec's vectors
(spec/95_test_vectors.md), and for each statement a state that meets its hypotheses. -/

namespace Sys2Proof.Tests

open Sys2Proof.Machine

/-! ### Small states and checks -/

/-- Consecutive bytes of a memory from index `a` on. -/
def cells : Nat → List Byte → Memory
  | _, [] => []
  | a, v :: vs => (a, v) :: cells (a + 1) vs

/-- The pixels (channel bytes 0 or 1, alpha 0xFF) whose channels carry the given bits; a last incomplete pixel is
dropped. -/
def pixelsFor : List Bool → List Byte
  | a :: b :: c :: rest => packBit 0 a :: packBit 0 b :: packBit 0 c :: 0xFF :: pixelsFor rest
  | _ => []

/-- The reset state with a pixel buffer and a message loaded. -/
def loaded (pixels message : List Byte) : State :=
  { State.reset with
    pix := cells 0 pixels, pixLen := pixels.length, msg := cells 0 message, msgLen := message.length }

/-- A buffer whose channel groups spell the given bytes, with up to two zero bits after them. -/
def carrying (bs : List Byte) : State := loaded (pixelsFor (bs.flatMap byteBits ++ [false, false])) []

/-- 22 pixels and a message of one byte: 64 bits in 66 channels (V3). -/
def fits : State := loaded (List.replicate 88 0x0A) [0x41]

/-- 21 pixels and a message of one byte: 64 bits, 63 channels (V3). -/
def tooSmall : State := loaded (List.replicate 84 0x0A) [0x41]

/-- Marker, "h", Terminator. -/
def markedH : State := carrying [0x53, 0x54, 0x45, 0x47, 0x4F, 0x3A, 0x68, 0x00]

/-- "stego:" in lower case: no Marker (V16). -/
def unmarked : State := carrying [0x73, 0x74, 0x65, 0x67, 0x6F, 0x3A]

/-- The outcome is a next state that passes a check. -/
def nextWith (o : Host.Outcome State Fault Refusal) (p : State → Bool) : Bool :=
  match o with
  | .next t => p t
  | _ => false

theorem exists_of_nextWith {o : Host.Outcome State Fault Refusal} {p : State → Bool} (h : nextWith o p = true) :
    ∃ t, o = .next t ∧ p t = true := by
  cases o with
  | next t => exact ⟨t, rfl, h⟩
  | fault r => cases h
  | refused r => cases h

theorem channelsWritten_of {p : Memory} {n : Nat} (h : ∀ k, k < n → (p.read (chanAddr k)).isSome = true) :
    ChannelsWritten p n :=
  fun k hk => Option.isSome_iff_exists.1 (h k hk)

/-! ### Decoding: words written out bit by bit (R50 to R53), and ill-formed terms -/

theorem test_decode_encode_word : decodeWord 0b00000001 = .ok .encode := by decide

theorem test_decode_decode_word : decodeWord 0b00000010 = .ok .decode := by decide

theorem test_decode_reserved_words :
    decodeWord 0x00 = .error (.reservedCode 0) ∧ decodeWord 0x03 = .error (.reservedCode 3) ∧
      decodeWord 0xFF = .error (.reservedCode 0xFF) ∧ decodeWord 0x101 = .error (.bitsAboveOpcode 0x101) := by decide

theorem test_table_words_decode : decodeTableWord 8 1 = some .encode ∧ decodeTableWord 8 2 = some .decode := by decide

/-- Each check of R5 refuses a configuration that breaks it. -/
theorem test_illformed_configs :
    ¬ ({ resetConfig with lenW := 0 } : Config).Wf ∧ ¬ ({ resetConfig with pixMax := 2 ^ 32 } : Config).Wf ∧
      ¬ ({ resetConfig with msgMax := 2 ^ 32 } : Config).Wf ∧ ¬ ({ resetConfig with outMax := 2 ^ 32 } : Config).Wf ∧
      ¬ ({ resetConfig with msgMax := 0 } : Config).Wf ∧ ¬ ({ resetConfig with outMax := 3743 } : Config).Wf ∧
      resetConfig.Wf := by decide

/-- Each check on host accesses refuses an access that breaks it. -/
theorem test_illformed_accesses :
    HostAccess.wf resetConfig (.writeReg 5 0) = false ∧ HostAccess.wf resetConfig (.writeReg 2 (2 ^ 32)) = false ∧
      HostAccess.wf resetConfig (.writeReg 3 (2 ^ 32)) = false ∧ HostAccess.wf resetConfig (.readReg 5) = false ∧
      HostAccess.wf resetConfig (.writeByte .pix 40000 0) = false ∧
      HostAccess.wf resetConfig (.writeByte .msg 64 0) = false ∧ HostAccess.wf resetConfig (.readByte .out 3744) = false ∧
      HostAccess.wf resetConfig (.writeReg 0 (2 ^ 40)) = true ∧ HostAccess.wf resetConfig (.readReg 4) = true := by
  decide

/-! ### The spec's vectors -/

/-- V8, first and last rows: "hi" into 24 pixels of 0xFF, an exact fit. -/
theorem test_encode_exact_fit :
    nextWith (exec .encode (loaded (List.replicate 96 0xFF) [0x68, 0x69])) (fun t =>
      decide (t.status.word = 0x10) &&
        decide ((List.range 16).map t.pix.read =
          [0xFE, 0xFF, 0xFE, 0xFF, 0xFF, 0xFE, 0xFE, 0xFF, 0xFF, 0xFF, 0xFE, 0xFF, 0xFF, 0xFE, 0xFF, 0xFF].map some) &&
        decide ((List.range' 80 16).map t.pix.read =
          [0xFF, 0xFE, 0xFE, 0xFF, 0xFF, 0xFE, 0xFE, 0xFF, 0xFE, 0xFE, 0xFE, 0xFF, 0xFE, 0xFE, 0xFE, 0xFF].map some)) =
      true := by decide +kernel

/-- S1: 2×2 pixels, "hi": CapacityExceeded, and the pixels stay. -/
theorem test_encode_capacity_exceeded :
    nextWith (exec .encode (loaded (List.replicate 16 0x10) [0x68, 0x69])) (fun t =>
      decide (t.status.word = 0x13) && decide (t.pix = cells 0 (List.replicate 16 0x10))) = true := by decide

/-- V13: the Marker with no Terminator in 16 pixels decodes to an empty text. -/
theorem test_decode_marker_only :
    nextWith (exec .decode (carrying [0x53, 0x54, 0x45, 0x47, 0x4F, 0x3A])) (fun t =>
      decide (t.pixLen = 64) && decide (t.status.word = 0x20) && decide (t.outLen = 0)) = true := by decide +kernel

/-- V17: the zero bits that straddle two groups do not end the unpacking. -/
theorem test_decode_terminator_alignment : (unpack (decodeStart (carrying [0xF0, 0x0F, 0x00]))).1 = [0xF0, 0x0F] := by
  decide +kernel

/-- V18: straight after reset. -/
theorem test_step_after_reset :
    nextWith (step (State.reset.withFetchWord 8 1)) (fun t => decide (t.status.word = 0x12)) = true ∧
      nextWith (step (State.reset.withFetchWord 8 2)) (fun t => decide (t.status.word = 0x24)) = true := by decide

/-- R27, R145: a byte written before a reset holds no value after it, and one written since does. -/
theorem test_reset_forgets_bytes :
    nextWith (step { fits with script := [.reset] }) (fun t =>
      decide (fits.pix.read 0 = some 0x0A) && decide (t.pix.read 0 = none) && decide (t.msg.read 0 = none)) = true ∧
      nextWith (core.run 2 { fits with script := [.reset, .writeByte .pix 0 0x0A] })
        (fun t => decide (t.pix.read 0 = some 0x0A) && decide (t.pix.read 1 = none)) = true := by decide

/-- V1, V5, V6: bits of a byte, channel addresses, packed bytes. -/
theorem test_small_functions :
    byteBits 0x53 = [false, true, false, true, false, false, true, true] ∧
      [0, 1, 2, 3, 5, 6, 47, 48, 71, 29999].map chanAddr = [0, 1, 2, 4, 6, 8, 62, 64, 94, 39998] ∧
      packBit 0xFF false = 0xFE ∧ packBit 0x0A true = 0x0B ∧ packBit 0x2D false = 0x2C ∧ packBit 0x80 true = 0x81 := by
  decide

/-! ### Facts about the small states -/

theorem fits_lengths : fits.EncLengthsOk := by
  unfold State.EncLengthsOk
  decide

theorem fits_message : fits.MessageIs [0x41] := by
  unfold State.MessageIs
  decide

theorem fits_channels : ChannelsWritten fits.pix 64 := channelsWritten_of (by decide +kernel)

theorem fits_encodes : ∃ t, exec .encode fits = .next t ∧ decide (t.status.code = .ok) = true :=
  exists_of_nextWith (by decide +kernel)

theorem tooSmall_fails : ∃ t, exec .encode tooSmall = .next t ∧ decide (t.status.code = .error .capacityExceeded) = true :=
  exists_of_nextWith (by decide)

theorem markedH_lengths : markedH.DecLengthsOk := by
  unfold State.DecLengthsOk
  decide +kernel

theorem markedH_channels : ChannelsWritten markedH.pix (capBits (pixelCount markedH.pixLen)) :=
  channelsWritten_of (by decide +kernel)

theorem markedH_decodes :
    ∃ t, exec .decode markedH = .next t ∧ (decide (t.status.code = .ok) && decide (t.outLen = 1)) = true :=
  exists_of_nextWith (by decide +kernel)

theorem unmarked_lengths : unmarked.DecLengthsOk := by
  unfold State.DecLengthsOk
  decide +kernel

theorem unmarked_channels : ChannelsWritten unmarked.pix (capBits (pixelCount unmarked.pixLen)) :=
  channelsWritten_of (by decide +kernel)

theorem unmarked_fails :
    ∃ t, exec .decode unmarked = .next t ∧ decide (t.status.code = .error .noHiddenMessage) = true :=
  exists_of_nextWith (by decide +kernel)

theorem reset_inv : State.reset.Inv where
  cfg_wf := by decide
  pixLen_lt := by decide
  msgLen_lt := by decide
  outLen_le := by decide
  pix_wf := by decide
  msg_wf := by decide
  out_wf := by decide
  pix_within := by decide
  msg_within := by decide
  out_within := by decide
  status_legal := by decide
  k_le := by decide
  clen_le := by decide

/-! ### Witnesses: for each statement with hypotheses, what meets them all -/

theorem witness_CommandValuesAreOneAndTwo :
    (State.reset.withFetchWord 8 1).script = .writeReg 0 1 :: [] ∧
      (State.reset.withFetchWord 8 2).script = .writeReg 0 2 :: [] := by decide

theorem witness_CommandCodecRoundTrip : Instr.encode.wf = true ∧ Instr.decode.wf = true ∧ decodeWord 2 = .ok .decode := by
  decide

theorem witness_StepRunsDecodedCommand :
    (State.reset.withFetchWord 8 1).script = .writeReg 0 1 :: [] ∧ decodeWord 1 = .ok .encode ∧
      Instr.encode.wf = true := by decide

/-- Both sides of the two commands, and the value with bit 8 set. -/
theorem witness_ReservedCommandOnlySetsStatus :
    ∀ v ∈ [0, 3, 255, 256, 257],
      ({ State.reset with script := [.writeReg 0 v] } : State).script = .writeReg 0 v :: [] ∧ v ≠ 1 ∧ v ≠ 2 := by decide

theorem witness_ResetEventClearsRegisters : ({ fits with script := [.reset] } : State).script = .reset :: [] := by rfl

theorem witness_EncodeEmbedsFrame :
    fits.EncLengthsOk ∧ fits.MessageIs [0x41] ∧ ([0x41] : List Byte) ≠ [] ∧ 8 * (1 + 7) ≤ 3 * (fits.pixLen / 4) ∧
      nbits 1 = 64 :=
  ⟨fits_lengths, fits_message, by decide, by decide, by decide⟩

/-- Both sides of the boundary: 66 and 63 channels for 64 bits. -/
theorem witness_EncodeCapacityBoundary :
    (fits.EncLengthsOk ∧ fits.msgLen ≠ 0 ∧ 8 * (fits.msgLen + 7) ≤ 3 * (fits.pixLen / 4)) ∧
      tooSmall.EncLengthsOk ∧ tooSmall.msgLen ≠ 0 ∧ ¬ 8 * (tooSmall.msgLen + 7) ≤ 3 * (tooSmall.pixLen / 4) := by
  unfold State.EncLengthsOk
  decide

/-- Both sides of the longest message of 24 pixels. -/
theorem witness_CapacityFormsAgree : maxMsg 24 = some 2 ∧ nbits 2 ≤ capBits 24 ∧ ¬ nbits 3 ≤ capBits 24 ∧ maxMsg 21 = none := by
  decide

theorem witness_FailedEncodeLeavesPixels : ∃ t, exec .encode tooSmall = .next t ∧ t.status.code ≠ .ok := by
  obtain ⟨t, h, hc⟩ := tooSmall_fails
  exact ⟨t, h, by simp [of_decide_eq_true hc]⟩

/-- Alpha of pixel 0 and G of pixel 21 are no channel of a 64-bit frame. -/
theorem witness_EncodeFrameCondition :
    (∃ t, exec .encode fits = .next t) ∧
      (∀ k, k < nbits fits.msgLen → 3 ≠ chanAddr k) ∧ ∀ k, k < nbits fits.msgLen → 85 ≠ chanAddr k := by
  refine ⟨fits_encodes.imp fun _ h => h.1, ?_, ?_⟩ <;> decide +kernel

theorem witness_EncodeDeterministicIdempotent :
    ∃ t, fits.MessageIs [0x41] ∧ ChannelsWritten fits.pix (nbits 1) ∧ exec .encode fits = .next t ∧
      t.status.code = .ok ∧ fits.pixLen = fits.pixLen ∧ ∀ a, fits.pix.read a = fits.pix.read a := by
  obtain ⟨t, h, hc⟩ := fits_encodes
  exact ⟨t, fits_message, fits_channels, h, of_decide_eq_true hc, rfl, fun _ => rfl⟩

/-- Two different buffers, one message. -/
theorem witness_EqualMessagesEmbedEqualBits :
    (∃ t, exec .encode fits = .next t ∧ decide (t.status.code = .ok) = true) ∧
      (∃ t, exec .encode (loaded (List.replicate 96 0xFF) [0x41]) = .next t ∧ decide (t.status.code = .ok) = true) ∧
      fits.MessageIs [0x41] ∧ (loaded (List.replicate 96 0xFF) [0x41]).MessageIs [0x41] := by
  refine ⟨fits_encodes, exists_of_nextWith (by decide +kernel), fits_message, ?_⟩
  unfold State.MessageIs
  decide

/-- Where the three parts of a frame meet. -/
theorem witness_FrameBitIsElementOfFrameBits :
    (frame [0x41])[5]? = some 0x3A ∧ (frame [0x41])[6]? = some 0x41 ∧ (frame [0x41])[7]? = some 0x00 ∧ 63 < nbits 1 := by
  decide

theorem witness_ChannelAddressesEnumerateRgb : 2 < 3 * 1 ∧ chanAddr 2 = 2 ∧ 2 < 4 * 1 ∧ 2 % 4 ≠ 3 ∧ ¬ 3 % 4 ≠ 3 := by decide

/-- Both branches: a Marker, and none. -/
theorem witness_DecodeDeliversCandidate :
    (markedH.cfg.Wf ∧ markedH.DecLengthsOk ∧ ChannelsWritten markedH.pix (capBits (pixelCount markedH.pixLen)) ∧
        candidate markedH.pix (pixelCount markedH.pixLen) = [0x53, 0x54, 0x45, 0x47, 0x4F, 0x3A, 0x68]) ∧
      unmarked.cfg.Wf ∧ unmarked.DecLengthsOk ∧ ChannelsWritten unmarked.pix (capBits (pixelCount unmarked.pixLen)) ∧
        (candidate unmarked.pix (pixelCount unmarked.pixLen)).take 6 ≠ marker :=
  ⟨⟨by decide, markedH_lengths, markedH_channels, by decide +kernel⟩, by decide, unmarked_lengths, unmarked_channels,
    by decide +kernel⟩

/-- Both sides of the equivalence; 16 pixels are the fewest that can succeed. -/
theorem witness_DecodeSucceedsIffMarkerBits :
    (markedH.cfg.Wf ∧ ChannelsWritten markedH.pix (capBits (pixelCount markedH.pixLen)) ∧
        ∀ k, k < 48 → some (chanBit markedH.pix k) = (frameBits [])[k]?) ∧
      unmarked.cfg.Wf ∧ ChannelsWritten unmarked.pix (capBits (pixelCount unmarked.pixLen)) ∧
        pixelCount unmarked.pixLen = 16 ∧ ¬ ∀ k, k < 48 → some (chanBit unmarked.pix k) = (frameBits [])[k]? :=
  ⟨⟨by decide, markedH_channels, by decide +kernel⟩, by decide, unmarked_channels, by decide +kernel, by decide +kernel⟩

theorem witness_DecodeNeverWritesItsInput : ∃ t, exec .decode markedH = .next t := markedH_decodes.imp fun _ h => h.1

theorem witness_FailedDecodeReturnsNoText : ∃ t, exec .decode unmarked = .next t ∧ t.status.code ≠ .ok := by
  obtain ⟨t, h, hc⟩ := unmarked_fails
  exact ⟨t, h, by simp [of_decide_eq_true hc]⟩

theorem witness_DecodeFrameCondition : ∃ t, exec .decode markedH = .next t ∧ t.outLen ≤ 1 := by
  obtain ⟨t, h, hc⟩ := markedH_decodes
  simp only [Bool.and_eq_true, decide_eq_true_eq] at hc
  exact ⟨t, h, Nat.le_of_eq hc.2⟩

theorem witness_DecodedTextIsBounded :
    ∃ t, exec .decode markedH = .next t ∧ t.status.code = .ok ∧ 0 < t.outLen ∧ markedH.cfg.Wf := by
  obtain ⟨t, h, hc⟩ := markedH_decodes
  simp only [Bool.and_eq_true, decide_eq_true_eq] at hc
  exact ⟨t, h, hc.1, Nat.lt_of_lt_of_eq Nat.zero_lt_one hc.2.symm, by decide⟩

/-- The state after ENCODE is itself a `u`. -/
theorem witness_EncodeThenDecodeReturnsMessage :
    fits.cfg.Wf ∧ fits.EncLengthsOk ∧ fits.MessageIs [0x41] ∧ ([0x41] : List Byte) ≠ [] ∧
      (∀ v ∈ ([0x41] : List Byte), v ≠ 0) ∧ 8 * (1 + 7) ≤ 3 * (fits.pixLen / 4) ∧
      ∃ t, exec .encode fits = .next t ∧
        (decide (t.pixLen % 4 = 0 ∧ t.pixLen ≤ t.cfg.pixMax ∧ 8 * (1 + 7) ≤ 3 * (t.pixLen / 4)) &&
          decide (∀ k, k < nbits 1 → (t.pix.read (chanAddr k)).isSome = true)) = true :=
  ⟨by decide, fits_lengths, fits_message, by decide, by decide, by decide, exists_of_nextWith (by decide +kernel)⟩

/-- V14. -/
theorem witness_ZeroByteEndsDecodedText :
    (loaded (List.replicate 108 0xFF) [0x61, 0x00, 0x62]).cfg.Wf ∧
      (loaded (List.replicate 108 0xFF) [0x61, 0x00, 0x62]).EncLengthsOk ∧
      (loaded (List.replicate 108 0xFF) [0x61, 0x00, 0x62]).MessageIs [0x61, 0x00, 0x62] ∧
      (0 : Byte) ∈ ([0x61, 0x00, 0x62] : List Byte) ∧
      8 * (3 + 7) ≤ 3 * ((loaded (List.replicate 108 0xFF) [0x61, 0x00, 0x62]).pixLen / 4) := by
  unfold State.EncLengthsOk State.MessageIs
  decide

/-- One buffer for each row: Marker and Terminator; Marker to the end; a zero group at 5, and at 0; five groups and
the end; six groups that are not the Marker. -/
theorem witness_DecodeOfBuffersEncodeNeverWrites :
    (∀ bs ∈ ([[0x53, 0x54, 0x45, 0x47, 0x4F, 0x3A, 0x00], [0x53, 0x54, 0x45, 0x47, 0x4F, 0x3A],
        [0x53, 0x54, 0x45, 0x47, 0x4F, 0x00], [0x00], [0x53, 0x54, 0x45, 0x47, 0x4F], [0x73, 0x74, 0x65, 0x67, 0x6F, 0x3A]] : List (List Byte)),
      (carrying bs).cfg.Wf ∧ (carrying bs).pixLen % 4 = 0 ∧ (carrying bs).pixLen ≤ (carrying bs).cfg.pixMax ∧
        (∀ k, k < capBits (pixelCount (carrying bs).pixLen) →
          ((carrying bs).pix.read (chanAddr k)).isSome = true) ∧
        capBytes (pixelCount (carrying bs).pixLen) = bs.length ∧
        ∀ j, j < bs.length → some (groupByte (carrying bs).pix j) = bs[j]?) := by
  decide +kernel

theorem witness_MarkerCheckIsClenAndMok :
    (∃ t, exec .decode markedH = .next t) ∧ markedH.DecLengthsOk ∧ (∃ t, exec .decode unmarked = .next t) ∧
      unmarked.DecLengthsOk :=
  ⟨markedH_decodes.imp fun _ h => h.1, markedH_lengths, unmarked_fails.imp fun _ h => h.1, unmarked_lengths⟩

/-- V17's buffer, and the same with bits 7 to 1 of the channels and the alpha bytes changed. -/
theorem witness_DecodeDependsOnBitZeroOnly :
    (∃ t, exec .decode (loaded [0x41, 0x40, 0x40, 0xFF] []) = .next t ∧ true = true) ∧
      ∀ k, k < capBits (pixelCount 4) →
        ∃ v w : Byte, (loaded [0x41, 0x40, 0x40, 0xFF] []).pix.read (chanAddr k) = some v ∧
          (cells 0 [0x01, 0xFE, 0x00, 0x12]).read (chanAddr k) = some w ∧ v.getLsbD 0 = w.getLsbD 0 := by
  refine ⟨exists_of_nextWith (by decide +kernel), fun k hk => ?_⟩
  have hk3 : k < 3 := hk
  match k with
  | 0 => exact ⟨0x41, 0x01, by decide, by decide, by decide⟩
  | 1 => exact ⟨0x40, 0xFE, by decide, by decide, by decide⟩
  | 2 => exact ⟨0x40, 0x00, by decide, by decide, by decide⟩
  | k + 3 => omega

/-- Each length at its limit and one past it. -/
theorem witness_InvalidInputExactly :
    (∀ v ∈ [0, 3], ({ fits with script := [.writeReg 0 v] } : State).script = .writeReg 0 v :: [] ∧ v ≠ 1 ∧ v ≠ 2) ∧
      fits.cfg.Wf ∧
      nextWith (exec .encode { fits with pixLen := 40000, msgLen := 65 })
        (fun t => decide (t.status.word = 0x11)) = true ∧
      nextWith (exec .encode { fits with pixLen := 40004 }) (fun t => decide (t.status.word = 0x11)) = true ∧
      nextWith (exec .encode { fits with pixLen := 0, msgLen := 64 }) (fun t => decide (t.status.word = 0x13)) = true ∧
      nextWith (exec .decode { fits with pixLen := 7 }) (fun t => decide (t.status.word = 0x21)) = true := by
  decide

theorem witness_EncodeOwnErrorsExactly :
    nextWith (exec .encode { fits with msgLen := 0 }) (fun t => decide (t.status.word = 0x12)) = true ∧
      nextWith (exec .encode tooSmall) (fun t => decide (t.status.word = 0x13)) = true ∧
      ∃ t, exec .decode markedH = .next t :=
  ⟨by decide, by decide, markedH_decodes.imp fun _ h => h.1⟩

theorem witness_NoHiddenMessageExactly :
    unmarked.cfg.Wf ∧ ChannelsWritten unmarked.pix (capBits (pixelCount unmarked.pixLen)) ∧
      (∃ t, exec .decode unmarked = .next t ∧ decide (t.status.code = .error .noHiddenMessage) = true) ∧
      ∃ t, exec .encode fits = .next t :=
  ⟨by decide, unmarked_channels, unmarked_fails, fits_encodes.imp fun _ h => h.1⟩

/-- The table of R125, one line for each situation of ENCODE. -/
theorem witness_ErrorPriority :
    fits.cfg.Wf ∧
      ∀ r ∈ ([(6, 0, 0x11), (6, 1, 0x11), (16, 0, 0x12), (16, 1, 0x13), (0, 1, 0x13)] : List (Nat × Nat × BitVec 6)),
        nextWith (exec .encode { fits with pixLen := r.1, msgLen := r.2.1 })
          (fun t => decide (t.status.word = r.2.2)) = true := by
  decide

theorem witness_RaiseWritesStatusOnly :
    (∃ t, exec .encode tooSmall = .next t ∧ t.status.code = .error .capacityExceeded) ∧
      ∃ t, exec .decode unmarked = .next t ∧ t.status.code = .error .noHiddenMessage :=
  ⟨tooSmall_fails.imp fun _ h => ⟨h.1, of_decide_eq_true h.2⟩, unmarked_fails.imp fun _ h => ⟨h.1, of_decide_eq_true h.2⟩⟩

theorem witness_EveryCommandEnds :
    markedH.cfg.Wf ∧ ∀ v ∈ [0, 1, 2, 3], ({ markedH with script := [.writeReg 0 v] } : State).script = .writeReg 0 v :: [] := by
  refine ⟨by decide, fun v _ => rfl⟩

theorem witness_WorkingRegistersCarryNothing : ∃ t, exec .encode fits = .next t := fits_encodes.imp fun _ h => h.1

theorem witness_CommandsIgnoreOtherOperands :
    (∃ t, exec .encode fits = .next t) ∧ ∃ t, exec .decode markedH = .next t :=
  ⟨fits_encodes.imp fun _ h => h.1, markedH_decodes.imp fun _ h => h.1⟩

/-- A success and a failure. -/
theorem witness_EncodeStepsRefineCommand :
    (∃ t, exec .encode fits = .next t ∧ t.status.code = .ok) ∧ ∃ t, exec .encode tooSmall = .next t ∧ t.status.code ≠ .ok :=
  ⟨fits_encodes.imp fun _ h => ⟨h.1, of_decide_eq_true h.2⟩, witness_FailedEncodeLeavesPixels⟩

theorem witness_PackStepsInvariant : fits.k = 0 ∧ fits.MessageIs [0x41] ∧ 64 ≤ nbits 1 := ⟨rfl, fits_message, by decide⟩

theorem witness_DecodeStepsRefineCommand :
    (∃ t, exec .decode markedH = .next t) ∧ ∃ t, exec .decode unmarked = .next t :=
  ⟨markedH_decodes.imp fun _ h => h.1, unmarked_fails.imp fun _ h => h.1⟩

theorem witness_DecodeEarlyStopIsInvisible : ∃ t, exec .decode unmarked = .next t := unmarked_fails.imp fun _ h => h.1

theorem witness_RegisterReadsReturnValue :
    ∀ i ∈ [0, 1, 2, 3, 4], ({ fits with script := [.readReg i] } : State).script = .readReg i :: [] ∧ i ≤ 4 := by decide

/-- Each register, with the widest value that fits and one past it. -/
theorem witness_RegisterWritesRespectAccessRights :
    (∀ i ∈ [1, 2, 3, 4], ({ fits with script := [.writeReg i 5] } : State).script = .writeReg i 5 :: []) ∧
      2 ^ 32 - 1 < 2 ^ fits.cfg.lenW ∧ ¬ 2 ^ 32 < 2 ^ fits.cfg.lenW := by decide

theorem witness_ByteAccessesReadAndWriteOneByte :
    (∀ sp ∈ [Space.pix, .msg, .out],
        ({ fits with script := [.writeByte sp 63 1] } : State).script = .writeByte sp 63 1 :: [] ∧
          63 < fits.cfg.size sp) ∧
      ({ fits with script := [.readByte .msg 0] } : State).script = .readByte .msg 0 :: [] ∧ 0 < fits.cfg.size .msg ∧
        (fits.mem .msg).read 0 = some 0x41 := by decide

/-- An access that is refused and one that is not. -/
theorem witness_StepRefusesExactlyIllFormedAccess :
    refuses (step { fits with script := [.readByte .pix 40000] }) = true ∧
      HostAccess.wf fits.cfg (.readByte .pix 40000) = false ∧
      refuses (step { fits with script := [.readReg 4] }) = false ∧ HostAccess.wf fits.cfg (.readReg 4) = true := by
  decide

theorem witness_IdleBlockHoldsItsState : State.reset.script = [] := by rfl

theorem witness_UnwrittenByteReadsAsFreeValue :
    ∀ sp ∈ [Space.pix, .msg, .out],
      ({ State.reset with script := [.readByte sp 0] } : State).script = .readByte sp 0 :: [] ∧
        0 < State.reset.cfg.size sp ∧ (State.reset.mem sp).read 0 = none ∧
        ({ fits with script := [.reset, .readByte sp 0] } : State).script = .reset :: .readByte sp 0 :: [] ∧
        0 < fits.cfg.size sp := by decide

theorem witness_WrittenOperandsDrawNoFreeValue :
    fits.MessageIs [0x41] ∧ ChannelsWritten fits.pix (nbits 1) ∧ (∃ t, exec .encode fits = .next t) ∧
      ChannelsWritten markedH.pix (capBits (pixelCount markedH.pixLen)) ∧ ∃ t, exec .decode markedH = .next t :=
  ⟨fits_message, fits_channels, fits_encodes.imp fun _ h => h.1, markedH_channels, markedH_decodes.imp fun _ h => h.1⟩

theorem witness_LoadLinesStoreOperands :
    ([1, 2] : List Byte).length ≤ State.reset.cfg.pixMax ∧ ([1, 2] : List Byte).length < 2 ^ State.reset.cfg.lenW ∧
      ({ State.reset with script := loadPix [1, 2] } : State).script = loadPix [1, 2] ++ [] ∧
      ([1, 2] : List Byte).length ≤ State.reset.cfg.msgMax ∧
      ({ State.reset with script := loadMsg [1, 2] } : State).script = loadMsg [1, 2] ++ [] := by decide

/-- A state with a text of one byte. -/
def withText : State := { State.reset with status := { op := .decode, code := .ok }, outLen := 1, out := [(0, 0x68)] }

theorem withText_textInv : withText.TextInv where
  text_written i hi := by
    have h : i = 0 := by
      have : withText.outLen = 1 := rfl
      omega
    subst h
    exact ⟨0x68, by decide, by decide⟩
  failed_empty := by decide
  fresh_empty := by decide

theorem witness_ReadTextReturnsDeliveredText :
    ({ withText with script := readText withText } : State).TextInv ∧ withText.outLen ≤ withText.cfg.outMax ∧
      ({ withText with script := readText withText } : State).script =
        readText { withText with script := readText withText } ++ [] :=
  ⟨⟨withText_textInv.1, withText_textInv.2, withText_textInv.3⟩, by decide, by decide⟩

/-- Code points 255 and 256. -/
theorem witness_TextBytesRefuseHighCodePoints :
    textBytes [Char.ofNat 255] = some [0xFF] ∧ textBytes [Char.ofNat 256] = none := by decide

theorem witness_StepKeepsInvariant : State.reset.Inv ∧ step State.reset = .next State.reset := ⟨reset_inv, rfl⟩

theorem witness_ResetMeetsInvariant : resetConfig.Wf := by decide

theorem witness_StepKeepsDeliveredText : withText.TextInv ∧ step withText = .next withText := ⟨withText_textInv, rfl⟩

theorem witness_LegalParametersNeverFault : State.reset.cfg.Wf := by decide

/-- A command, and a reset, which changes PIX and MSG too. -/
theorem witness_OnlyTheNamedAccessChangesEachField :
    (({ fits with script := [.reset] } : State).script = .reset :: [] ∧
        nextWith (step { fits with script := [.reset] })
          (fun t => decide (t.pix ≠ fits.pix) && decide (t.msg ≠ fits.msg)) = true) ∧
      ∃ t, ({ fits with script := [.writeReg 0 1] } : State).script = .writeReg 0 1 :: [] ∧
      step { fits with script := [.writeReg 0 1] } = .next t ∧ decide (t.status ≠ fits.status) = true := by
  refine ⟨by decide, ?_⟩
  obtain ⟨t, h, hc⟩ := exists_of_nextWith
    (o := step { fits with script := [.writeReg 0 1] }) (p := fun t => decide (t.status ≠ fits.status)) (by decide +kernel)
  exact ⟨t, rfl, h, hc⟩

end Sys2Proof.Tests
end

section
/-! PROOFS. The host's conversion of a text to message bytes (spec/00_scope.md R7). -/

namespace Sys2Proof.Machine

@[simp] theorem textBytes_nil : textBytes [] = some [] := rfl

theorem textBytes_cons_of_le {c : Char} (h : c.toNat ≤ 255) (cs : List Char) :
    textBytes (c :: cs) = (textBytes cs).map (fun bs => BitVec.ofNat 8 c.toNat :: bs) := if_pos h

theorem textBytes_cons_of_gt {c : Char} (h : 255 < c.toNat) (cs : List Char) : textBytes (c :: cs) = none :=
  if_neg (Nat.not_le.2 h)

/-- The first character of a refused text is too high, or the rest is refused. -/
theorem textBytes_cons_eq_none_iff (c : Char) (cs : List Char) :
    textBytes (c :: cs) = none ↔ 255 < c.toNat ∨ textBytes cs = none := by
  by_cases h : c.toNat ≤ 255
  · simp [textBytes_cons_of_le h, h]
  · simp [textBytes_cons_of_gt (Nat.not_le.1 h), Nat.not_le.1 h]

theorem textBytes_eq_none_iff (cs : List Char) : textBytes cs = none ↔ ∃ c ∈ cs, 255 < c.toNat := by
  induction cs with
  | nil => simp
  | cons c cs ih => rw [textBytes_cons_eq_none_iff, ih, List.exists_mem_cons_iff]

/-- The bytes of a converted text are its code points: a code point up to 255 is not reduced by the 8 bits. -/
theorem textBytes_toNat {cs : List Char} {bs : List Byte} (h : textBytes cs = some bs) :
    bs.map BitVec.toNat = cs.map Char.toNat := by
  induction cs generalizing bs with
  | nil =>
    obtain rfl : [] = bs := Option.some.inj h
    rfl
  | cons c cs ih =>
    by_cases hc : c.toNat ≤ 255
    · rw [textBytes_cons_of_le hc, Option.map_eq_some_iff] at h
      obtain ⟨ds, hds, rfl⟩ := h
      have hbyte : (BitVec.ofNat 8 c.toNat).toNat = c.toNat := by
        rw [BitVec.toNat_ofNat, Nat.mod_eq_of_lt (by omega)]
      rw [List.map_cons, List.map_cons, hbyte, ih hds]
    · simp [textBytes_cons_of_gt (Nat.not_le.1 hc)] at h

/-- Settles O53, by induction on the characters: one too high refuses the text, any other is its own byte. -/
theorem textBytesRefuseHighCodePoints : Obligations.TextBytesRefuseHighCodePoints :=
  fun cs => ⟨textBytes_eq_none_iff cs, fun _ => textBytes_toNat⟩

end Sys2Proof.Machine
end

section
/-! PROOFS. Which steps can fault: none but a DECODE whose text outgrows OUT, which spec/00_scope.md R5 rules out. -/

namespace Sys2Proof.Machine

/-! ### Both commands answer a next state -/

/-- A longer buffer carries no shorter text (R5, R108). -/
theorem maxText_le_maxText {m n : Nat} (h : m ≤ n) : maxText m ≤ maxText n := by
  simp only [maxText, capBytes, capBits, pixelCount]
  omega

/-- The text of a valid DECODE is at most `MaxText(PIX_LEN)` bytes long (R104, R108). -/
theorem unpack_text_length_le (s : State) : ((unpack (decodeStart s)).1.drop 6).length ≤ maxText s.pixLen := by
  rw [List.length_drop]
  exact Nat.sub_le_sub_right (unpack_length_le s) 6

/-- OUT holds the text of every valid DECODE: the last constraint of R5. -/
theorem unpack_text_fits {s : State} (hw : s.cfg.Wf) (hv : decValid s = true) :
    ((unpack (decodeStart s)).1.drop 6).length ≤ s.cfg.outMax := by
  obtain ⟨-, -, -, -, -, hmax⟩ := hw
  obtain ⟨-, hlen⟩ := (decValid_iff s).1 hv
  calc ((unpack (decodeStart s)).1.drop 6).length
      ≤ maxText s.pixLen := unpack_text_length_le s
    _ ≤ maxText s.cfg.pixMax := maxText_le_maxText hlen
    _ ≤ s.cfg.outMax := hmax

/-- ENCODE answers a next state whatever its operands (R131). -/
theorem execEncode_answers (s : State) : ∃ t, execEncode s = .next t := by
  rw [execEncode_eq]
  cases encodeCheck s with
  | some e => exact ⟨_, rfl⟩
  | none => exact ⟨_, rfl⟩

/-- DECODE answers a next state when the parameters are legal (R131, log 11). -/
theorem execDecode_answers {s : State} (hw : s.cfg.Wf) : ∃ t, execDecode s = .next t := by
  rcases execDecode_cases s with ⟨_, h⟩ | ⟨_, _, h⟩ | ⟨hv, _, h⟩
  · exact ⟨_, h⟩
  · exact ⟨_, h⟩
  · have hcfg : (unpack (decodeStart s)).2.cfg = s.cfg := by rw [unpack_state, decodeStart_cfg]
    exact ⟨_, h.trans (deliver_eq (hcfg ▸ unpack_text_fits hw hv))⟩

theorem exec_answers {s : State} (hw : s.cfg.Wf) (i : Instr) : ∃ t, exec i s = .next t := by
  cases i with
  | encode => exact execEncode_answers s
  | decode => exact execDecode_answers hw

/-- Every value written to CMD answers a next state, a reserved one included (R53, R131). -/
theorem runCommand_answers {s : State} (hw : s.cfg.Wf) (v : Nat) : ∃ t, runCommand v s = .next t := by
  unfold runCommand
  cases decodeWord v with
  | ok i => exact exec_answers hw i
  | error e => exact ⟨_, rfl⟩

/-! ### No access of the host faults -/

@[simp] theorem faults_next (s : State) : faults (.next s) = false := rfl

@[simp] theorem faults_refused (r : Refusal) : faults (.refused r) = false := rfl

theorem faults_runCommand {s : State} (hw : s.cfg.Wf) (v : Nat) : faults (runCommand v s) = false := by
  obtain ⟨t, ht⟩ := runCommand_answers hw v
  rw [ht, faults_next]

@[simp] theorem faults_writeLength (i v : Nat) (s t : State) : faults (writeLength i v s t) = false := by
  unfold writeLength
  split <;> rfl

theorem faults_writeReg {s : State} (hw : s.cfg.Wf) (i v : Nat) : faults (writeReg i v s) = false := by
  unfold writeReg
  split
  · exact faults_runCommand hw v
  · exact faults_next s
  · exact faults_writeLength 2 v s _
  · exact faults_writeLength 3 v s _
  · exact faults_next s
  · exact faults_refused _

@[simp] theorem faults_readReg (i : Nat) (s : State) : faults (readReg i s) = false := by
  unfold readReg
  split <;> rfl

@[simp] theorem faults_hostWriteByte (sp : Space) (a : Nat) (v : Byte) (s : State) :
    faults (hostWriteByte sp a v s) = false := by
  unfold hostWriteByte
  split
  · cases sp <;> rfl
  · rfl

@[simp] theorem faults_hostReadByte (sp : Space) (a : Nat) (s : State) : faults (hostReadByte sp a s) = false := by
  unfold hostReadByte
  split <;> rfl

theorem faults_hostAccess {s : State} (hw : s.cfg.Wf) (a : HostAccess) : faults (hostAccess a s) = false := by
  cases a with
  | writeReg i v => exact faults_writeReg hw i v
  | readReg i => exact faults_readReg i s
  | writeByte sp a v => exact faults_hostWriteByte sp a v s
  | readByte sp a => exact faults_hostReadByte sp a s
  | reset => exact faults_next _

/-- Settles O57: a step is idle or one access of the host; only a DECODE could fault, and its text fits OUT. -/
theorem legalParametersNeverFault : Obligations.LegalParametersNeverFault := by
  intro s hw
  rcases step_cases s with ⟨_, h⟩ | ⟨a, rest, _, h⟩
  · rw [h, faults_next]
  · rw [h]
    exact faults_hostAccess (s := { s with script := rest }) hw a

end Sys2Proof.Machine
end

section
/-! PROOFS. The machine's invariant: each named operation keeps it, so each command, each access and each step does
(spec/10_state.md R10 to R22, spec/30_encoding.md R55). -/

namespace Sys2Proof.Machine

/-! ### Reset and the fields the invariant does not read -/

/-- The reset state of a legal parameter choice meets the invariant. -/
theorem inv_resetWith {c : Config} (h : c.Wf) : (State.resetWith c).Inv where
  cfg_wf := h
  pixLen_lt := Nat.two_pow_pos _
  msgLen_lt := Nat.two_pow_pos _
  outLen_le := Nat.zero_le _
  pix_wf := List.Pairwise.nil
  msg_wf := List.Pairwise.nil
  out_wf := List.Pairwise.nil
  pix_within := List.forall_mem_nil _
  msg_within := List.forall_mem_nil _
  out_within := List.forall_mem_nil _
  status_legal := (by decide : ({ op := .noCommand, code := .ok } : Status).Legal)
  k_le := Nat.zero_le _
  clen_le := Nat.zero_le _

/-- No register announces a text after reset (R27). -/
theorem textInv_resetWith (c : Config) : (State.resetWith c).TextInv where
  text_written i h := absurd h (Nat.not_lt_zero i)
  failed_empty _ _ := rfl
  fresh_empty _ := rfl

theorem inv_resetEvent {s : State} (h : s.Inv) : (resetEvent s).Inv :=
  { inv_resetWith h.cfg_wf with }

theorem inv_setScript {s : State} (h : s.Inv) (rest : List HostAccess) : { s with script := rest }.Inv :=
  { h with }

theorem inv_answer {s : State} (h : s.Inv) (n : Nat) : (answer n s).Inv :=
  { h with }

theorem inv_readByte {s : State} (h : s.Inv) (sp : Space) (a : Nat) : (readByte sp a s).2.Inv := by
  rw [readByte_state]
  exact { h with }

/-! ### Host writes and STATUS -/

theorem inv_setPixLen {s : State} (h : s.Inv) {v : Nat} (hv : v < 2 ^ s.cfg.lenW) : { s with pixLen := v }.Inv :=
  { h with pixLen_lt := hv }

theorem inv_setMsgLen {s : State} (h : s.Inv) {v : Nat} (hv : v < 2 ^ s.cfg.lenW) : { s with msgLen := v }.Inv :=
  { h with msgLen_lt := hv }

theorem inv_writeByte {s : State} (h : s.Inv) {sp : Space} {a : Nat} (ha : a < s.cfg.size sp) (v : Byte) :
    (writeByte sp a v s).Inv := by
  cases sp with
  | pix => exact { h with pix_wf := Memory.write_wf h.pix_wf a v, pix_within := Memory.write_within h.pix_within ha v }
  | msg => exact { h with msg_wf := Memory.write_wf h.msg_wf a v, msg_within := Memory.write_within h.msg_within ha v }
  | out => exact { h with out_wf := Memory.write_wf h.out_wf a v, out_within := Memory.write_within h.out_within ha v }

theorem inv_setStatus {s : State} (h : s.Inv) {op : StatusOp} {code : StatusCode}
    (hl : ({ op := op, code := code } : Status).Legal) : (setStatus op code s).Inv :=
  { h with status_legal := hl }

theorem inv_setOutLen {s : State} (h : s.Inv) {n : Nat} (hn : n ≤ s.cfg.outMax) : { s with outLen := n }.Inv :=
  { h with outLen_le := hn }

/-- A command that ends with an error keeps the invariant when R55 lists its STATUS. -/
theorem inv_raise {s : State} (h : s.Inv) {c : Instr} {e : ErrorKind}
    (hl : ({ op := opOf c, code := .error e } : Status).Legal) : (raise c e s).Inv := by
  cases c with
  | encode => exact inv_setStatus h hl
  | decode => exact inv_setStatus (inv_setOutLen h (Nat.zero_le _)) hl

/-! ### ENCODE -/

/-- The channels of a buffer lie inside it (R35). -/
theorem chanAddr_lt {k n : Nat} (h : k < capBits (pixelCount n)) : chanAddr k < n := by
  simp only [capBits, pixelCount, chanAddr] at *
  omega

/-- A longer buffer has no fewer channels. -/
theorem channels_mono {m n : Nat} (h : m ≤ n) : capBits (pixelCount m) ≤ capBits (pixelCount n) :=
  Nat.mul_le_mul_left 3 (Nat.div_le_div_right h)

theorem inv_encodeStart {s : State} (h : s.Inv) : (encodeStart s).Inv :=
  { h with k_le := Nat.zero_le _ }

/-- Pack steps keep the invariant as long as their channels lie in PIX. -/
theorem inv_packSteps {s : State} (h : s.Inv) {n : Nat}
    (hn : s.k + n ≤ capBits (pixelCount s.cfg.pixMax)) : (packSteps n s).Inv := by
  rw [packSteps_state]
  exact { h with
    pix_wf := packSteps_wf n h.pix_wf
    pix_within := packSteps_within n h.pix_within fun _ _ hk => chanAddr_lt (Nat.lt_of_lt_of_le hk hn)
    k_le := hn }

/-- ENCODE raises none but the errors that R55 lists for it. -/
theorem legal_of_encodeCheck {s : State} {e : ErrorKind} (h : encodeCheck s = some e) :
    ({ op := .encode, code := .error e } : Status).Legal := by
  rw [encodeCheck_eq] at h
  split_ifs at h <;> cases h <;> decide

/-- ENCODE packs exactly when its lengths are valid, there is a message and the frame fits (R80). -/
theorem encodeCheck_eq_none_iff (s : State) :
    encodeCheck s = none ↔ s.EncLengthsOk ∧ s.msgLen ≠ 0 ∧ nbits s.msgLen ≤ capBits (pixelCount s.pixLen) := by
  rw [encodeCheck_eq]
  simp only [State.EncLengthsOk, nbits, frameLen, capBits, pixelCount]
  split_ifs <;> simp only [false_iff, true_iff] <;> omega

/-- The frame of an ENCODE that passes its checks fits the channels of PIX (R81, R84). -/
theorem nbits_le_of_encodeCheck {s : State} (h : encodeCheck s = none) :
    nbits s.msgLen ≤ capBits (pixelCount s.cfg.pixMax) := by
  obtain ⟨⟨-, hlen, -⟩, -, hfit⟩ := (encodeCheck_eq_none_iff s).1 h
  exact Nat.le_trans hfit (channels_mono hlen)

/-! ### DECODE -/

theorem inv_decodeStart {s : State} (h : s.Inv) : (decodeStart s).Inv :=
  { h with k_le := Nat.zero_le _, clen_le := Nat.zero_le _ }

/-- Unpacking a buffer of valid length keeps K and CLEN within their bounds (R20, R22). -/
theorem inv_unpack {s : State} (h : s.Inv) (hv : decValid s = true) : (unpack (decodeStart s)).2.Inv := by
  obtain ⟨-, hlen⟩ := (decValid_iff s).1 hv
  have hcap := channels_mono hlen
  have hk : (unpack (decodeStart s)).2.k ≤ 0 + capBits (pixelCount s.pixLen) := unpackSteps_k_le _ _ _
  have hclen : (unpack (decodeStart s)).2.clen = _ := unpackSteps_clen _ [] (decodeStart s) rfl
  rw [unpack_state]
  exact { h with
    k_le := by
      rw [Nat.zero_add] at hk
      exact Nat.le_trans hk hcap
    clen_le :=
      calc _ = (unpack (decodeStart s)).1.length := hclen
        _ ≤ capBytes (pixelCount s.pixLen) := unpack_length_le s
        _ ≤ capBytes (pixelCount s.cfg.pixMax) := Nat.div_le_div_right hcap }

/-- Delivering a text that fits OUT keeps the invariant (R106). -/
theorem inv_deliver {s : State} (h : s.Inv) {text : List Byte} (hl : text.length ≤ s.cfg.outMax) :
    (decodeDone text.length (writeText 0 text s)).Inv := by
  rw [writeText_state]
  exact { h with
    outLen_le := hl
    out_wf := writeText_wf h.out_wf 0 text
    out_within := writeText_within h.out_within (by rwa [Nat.zero_add])
    status_legal := (by decide : ({ op := .decode, code := .ok } : Status).Legal) }

/-! ### Commands, accesses, steps -/

theorem inv_exec {s t : State} (h : s.Inv) {i : Instr} (ht : exec i s = .next t) : t.Inv := by
  rcases exec_cases ht with ⟨e, rfl, he, rfl⟩ | ⟨rfl, he, rfl⟩ | ⟨rfl, -, rfl⟩ | ⟨rfl, hv, -, rfl⟩ | ⟨rfl, hv, -, hl, rfl⟩
  · exact inv_raise (inv_encodeStart h) (legal_of_encodeCheck he)
  · refine inv_setStatus (inv_packSteps (inv_encodeStart h) ?_) (by decide)
    rw [encodeStart_k, Nat.zero_add]
    exact nbits_le_of_encodeCheck he
  · exact inv_raise (c := .decode) (e := .invalidInput) (inv_decodeStart h) (by decide)
  · exact inv_raise (c := .decode) (e := .noHiddenMessage) (inv_unpack h hv) (by decide)
  · exact inv_deliver (inv_unpack h hv) hl

theorem inv_hostAccess {s t : State} (h : s.Inv) {a : HostAccess} (ht : hostAccess a s = .next t) : t.Inv := by
  rcases hostAccess_cases ht with ⟨_, n, -, -, rfl⟩ | ⟨_, -, rfl⟩ | ⟨_, -, hv, rfl⟩ | ⟨_, -, hv, rfl⟩ |
    ⟨_, _, v, -, hb, ⟨-, rfl⟩ | ⟨-, rfl⟩⟩ | ⟨sp, b, -, -, rfl⟩ | ⟨-, rfl⟩ | ⟨_, _, -, -, rfl⟩ | ⟨_, _, -, -, hx⟩
  · exact inv_answer h n
  · exact h
  · exact inv_setPixLen h hv
  · exact inv_setMsgLen h hv
  · exact inv_writeByte h hb v
  · exact h
  · exact inv_answer (inv_readByte h sp b) _
  · exact inv_resetEvent h
  · exact inv_setStatus h (by decide)
  · exact inv_exec h hx

/-- Settles O54: a step is idle or one access of the host, and each access keeps the invariant. -/
theorem stepKeepsInvariant : Obligations.StepKeepsInvariant := by
  intro s t h ht
  rcases step_cases s with ⟨-, hs⟩ | ⟨a, rest, -, hs⟩
  · cases hs.symm.trans ht
    exact h
  · exact inv_hostAccess (inv_setScript h rest) (hs.symm.trans ht)

/-- Settles O55: the registers are 0, the memories hold nothing, and the parameters of `State.reset` are legal. -/
theorem resetMeetsInvariant : Obligations.ResetMeetsInvariant :=
  ⟨inv_resetWith (by decide), textInv_resetWith _,
    fun c hc => ⟨inv_resetWith hc, textInv_resetWith c⟩⟩

end Sys2Proof.Machine
end

section
/-! PROOFS. What a command leaves unchanged, which access changes which field, and which accesses a step refuses
(spec/10_state.md R10 to R18, R26; spec/20_memory.md R37). -/

namespace Sys2Proof.Machine

/-! ### The command a written value runs -/

/-- A value that decodes is the word of its command (R51, R52). -/
theorem eq_encodeWord_of_decodeWord {v : Nat} {i : Instr} (h : decodeWord v = .ok i) : v = encodeWord i := by
  unfold decodeWord upperBits opcField at h
  split at h
  · cases h
  · split at h
    · cases h
      show v = 1
      omega
    · split at h
      · cases h
        show v = 2
        omega
      · cases h

theorem decodeWord_encodeWord (i : Instr) : decodeWord (encodeWord i) = .ok i := by
  cases i <;> rfl

/-- A write of a command's value to CMD runs the command (R11, R147). -/
theorem step_of_command {s : State} {v : Nat} {rest : List HostAccess} {i : Instr}
    (hs : s.script = .writeReg 0 v :: rest) (hv : decodeWord v = .ok i) :
    step s = exec i { s with script := rest } := by
  rw [step_of_script hs]
  show runCommand v { s with script := rest } = _
  rw [runCommand, hv]

/-- Settles O4: the written value decodes, and a table word is the value of its command with the bits above it 0. -/
theorem stepRunsDecodedCommand : Obligations.StepRunsDecodedCommand := by
  refine ⟨fun s v rest i hs hv => step_of_command hs hv, fun s i _ => ?_⟩
  have hword : encodeWord i % 2 ^ 8 = encodeWord i := by cases i <;> rfl
  have hscript : (s.withFetchWord 8 (encodeWord i)).script = .writeReg 0 (encodeWord i) :: s.script := by
    rw [State.withFetchWord, hword]
  exact step_of_command hscript (decodeWord_encodeWord i)

/-! ### What a command leaves unchanged -/

/-- ENCODE writes PIX, STATUS and K, and draws free values (R80 to R88). -/
theorem execEncode_frame {s t : State} (h : exec .encode s = .next t) :
    t = { s with pix := t.pix, status := t.status, k := t.k, freeReads := t.freeReads } := by
  rcases exec_cases h with ⟨e, -, -, rfl⟩ | ⟨-, -, rfl⟩ | ⟨⟨⟩, -⟩ | ⟨⟨⟩, -⟩ | ⟨⟨⟩, -⟩
  · rfl
  · rw [packSteps_state]
    rfl

/-- DECODE writes OUT, OUT_LEN, STATUS and the working registers, and draws free values (R102 to R109). -/
theorem execDecode_frame {s t : State} (h : exec .decode s = .next t) :
    t = { s with out := t.out, outLen := t.outLen, status := t.status, k := t.k, acc := t.acc, clen := t.clen,
                 mok := t.mok, freeReads := t.freeReads } := by
  rcases exec_cases h with ⟨e, ⟨⟩, -⟩ | ⟨⟨⟩, -⟩ | ⟨-, -, rfl⟩ | ⟨-, -, -, rfl⟩ | ⟨-, -, -, -, rfl⟩
  · rfl
  · rw [unpack_state]
    rfl
  · rw [writeText_state, unpack_state]
    rfl

/-! ### Which access changes which field -/

/-- What an access that answers a next state leaves as it was. -/
structure ChangesOnlyWhatItNames (a : HostAccess) (s t : State) : Prop where
  cfg : t.cfg = s.cfg
  script : t.script = s.script
  status : t.status ≠ s.status → (∃ v, a = .writeReg 0 v) ∨ a = .reset
  pix : t.pix ≠ s.pix → a = .writeReg 0 1 ∨ (∃ b v, a = .writeByte .pix b v) ∨ a = .reset
  msg : t.msg ≠ s.msg → (∃ b v, a = .writeByte .msg b v) ∨ a = .reset
  out : t.out ≠ s.out → a = .writeReg 0 2 ∨ a = .reset
  outLen : t.outLen ≠ s.outLen → a = .writeReg 0 2 ∨ a = .reset
  pixLen : t.pixLen ≠ s.pixLen → (∃ v, a = .writeReg 2 v) ∨ a = .reset
  msgLen : t.msgLen ≠ s.msgLen → (∃ v, a = .writeReg 3 v) ∨ a = .reset

/-- A command changes what its frame lemma names; every other access is one named update of the state. -/
theorem hostAccess_changes {a : HostAccess} {s t : State} (h : hostAccess a s = .next t) :
    ChangesOnlyWhatItNames a s t := by
  rcases hostAccess_cases h with ⟨_, _, rfl, -, rfl⟩ | ⟨_, -, rfl⟩ | ⟨_, rfl, -, rfl⟩ | ⟨_, rfl, -, rfl⟩ |
    ⟨sp, _, _, rfl, -, ⟨hsp, rfl⟩ | ⟨-, rfl⟩⟩ | ⟨_, _, rfl, -, rfl⟩ | ⟨rfl, rfl⟩ | ⟨_, _, rfl, -, rfl⟩ |
    ⟨v, i, rfl, hv, hx⟩
  case inr.inr.inr.inr.inl.inl =>
    cases sp with
    | pix => constructor <;> simp
    | msg => constructor <;> simp
    | out => exact absurd rfl hsp
  case inr.inr.inr.inr.inr.inr.inr.inr =>
    obtain rfl := eq_encodeWord_of_decodeWord hv
    cases i with
    | encode =>
      rw [execEncode_frame hx]
      constructor <;> simp [encodeWord]
    | decode =>
      rw [execDecode_frame hx]
      constructor <;> simp [encodeWord]
  all_goals constructor <;> simp

/-- Settles O58: a step with an access pending makes it, and each access changes only what it names. -/
theorem onlyTheNamedAccessChangesEachField : Obligations.OnlyTheNamedAccessChangesEachField := by
  intro s t a rest hs ht
  rw [step_of_script hs] at ht
  obtain ⟨hcfg, hscript, hstatus, hpix, hmsg, hout, houtLen, hpixLen, hmsgLen⟩ := hostAccess_changes ht
  exact ⟨hcfg, hscript, hstatus, hpix, hmsg, hout, houtLen, hpixLen, hmsgLen⟩

/-! ### Which accesses are refused -/

@[simp] theorem refuses_next (s : State) : refuses (.next s) = false := rfl

@[simp] theorem refuses_refused (r : Refusal) : refuses (.refused r) = true := rfl

theorem refuses_deliver (cs : List Byte) (s : State) : refuses (deliver cs s) = false := by
  simp only [deliver]
  split <;> rfl

/-- A command ends, or faults; it is never refused (R131). -/
theorem refuses_exec (i : Instr) (s : State) : refuses (exec i s) = false := by
  cases i with
  | encode =>
    obtain ⟨t, ht⟩ := execEncode_answers s
    exact congrArg refuses ht
  | decode =>
    rcases execDecode_cases s with ⟨-, h⟩ | ⟨-, -, h⟩ | ⟨-, -, h⟩
    · exact congrArg refuses h
    · exact congrArg refuses h
    · exact (congrArg refuses h).trans (refuses_deliver _ _)

theorem refuses_runCommand (v : Nat) (s : State) : refuses (runCommand v s) = false := by
  unfold runCommand
  split
  · exact refuses_exec _ s
  · rfl

/-- A length register refuses exactly the values that do not fit `LEN_W` bits (R13, R14). -/
theorem refuses_writeLength (i v : Nat) (s t : State) :
    refuses (writeLength i v s t) = !decide (v < 2 ^ s.cfg.lenW) := by
  unfold writeLength
  split <;> simp [*]

theorem refuses_writeReg (i v : Nat) (s : State) :
    refuses (writeReg i v s) = !(HostAccess.writeReg i v).wf s.cfg := by
  match i with
  | 0 => exact refuses_runCommand v s
  | 1 => rfl
  | 2 => exact refuses_writeLength 2 v s _
  | 3 => exact refuses_writeLength 3 v s _
  | 4 => rfl
  | n + 5 => simp [writeReg, HostAccess.wf]

theorem refuses_readReg (i : Nat) (s : State) : refuses (readReg i s) = !(HostAccess.readReg i).wf s.cfg := by
  match i with
  | 0 | 1 | 2 | 3 | 4 => rfl
  | n + 5 => simp [readReg, regValue, HostAccess.wf]

theorem refuses_hostWriteByte (sp : Space) (a : Nat) (v : Byte) (s : State) :
    refuses (hostWriteByte sp a v s) = !decide (a < s.cfg.size sp) := by
  unfold hostWriteByte
  split
  case isTrue h => cases sp <;> simp [h]
  case isFalse h => simp [h]

theorem refuses_hostReadByte (sp : Space) (a : Nat) (s : State) :
    refuses (hostReadByte sp a s) = !decide (a < s.cfg.size sp) := by
  unfold hostReadByte
  split <;> simp [*]

theorem refuses_hostAccess (a : HostAccess) (s : State) : refuses (hostAccess a s) = !a.wf s.cfg := by
  cases a with
  | writeReg i v => exact refuses_writeReg i v s
  | readReg i => exact refuses_readReg i s
  | writeByte sp a v => exact refuses_hostWriteByte sp a v s
  | readByte sp a => exact refuses_hostReadByte sp a s
  | reset => rfl

/-- Settles O47: the step makes the access, and each access is refused exactly when it is ill formed. -/
theorem stepRefusesExactlyIllFormedAccess : Obligations.StepRefusesExactlyIllFormedAccess := by
  intro s a rest hs
  rw [step_of_script hs, refuses_hostAccess, Bool.not_eq_true']

end Sys2Proof.Machine
end

section
/-! PROOFS. What does not steer a command: STATUS and the working registers (spec/10_state.md R24, R25), and for ENCODE
also OUT and OUT_LEN (spec/30_encoding.md R54). Putting other values there before a command's loop is the same as
putting them there after it. -/

namespace Sys2Proof.Machine

/-! ### What ENCODE does not read -/

/-- `s` with the fields that a pack step neither reads nor writes taken from `u`. -/
def withUnread (u s : State) : State :=
  { s with status := u.status, out := u.out, outLen := u.outLen, acc := u.acc, clen := u.clen, mok := u.mok }

theorem readByte_withUnread (u s : State) {sp : Space} (h : sp ≠ .out) (a : Nat) :
    readByte sp a (withUnread u s) = ((readByte sp a s).1, withUnread u (readByte sp a s).2) := by
  have hmem : (withUnread u s).mem sp = s.mem sp := by
    cases sp with
    | pix => rfl
    | msg => rfl
    | out => exact absurd rfl h
  unfold readByte
  rw [hmem]
  split <;> rfl

theorem readFrameBit_withUnread (u s : State) (k : Nat) :
    readFrameBit k (withUnread u s) = ((readFrameBit k s).1, withUnread u (readFrameBit k s).2) := by
  have hlen : (withUnread u s).msgLen = s.msgLen := rfl
  simp only [readFrameBit, readFrameByte, hlen]
  split
  · rfl
  · split
    · rw [readByte_withUnread u s (by decide)]
    · rfl

theorem packStep_withUnread (u s : State) : packStep (withUnread u s) = withUnread u (packStep s) := by
  have hk : (withUnread u s).k = s.k := rfl
  simp only [packStep, hk, readByte_withUnread u s (sp := .pix) (by decide), readFrameBit_withUnread]
  rfl

theorem packSteps_withUnread (n : Nat) (u s : State) : packSteps n (withUnread u s) = withUnread u (packSteps n s) := by
  induction n generalizing s with
  | zero => rfl
  | succ n ih =>
    rw [packSteps, packStep_withUnread, ih]
    rfl

/-- ENCODE reads none of STATUS, OUT, OUT_LEN and the working registers: it writes STATUS and K before it reads them, and
leaves the others alone (R54, R80, log 14). -/
theorem execEncode_ignores (u : State) {s t : State} (h : exec .encode s = .next t) :
    exec .encode { withUnread u s with k := u.k } = .next { withUnread u t with status := t.status } := by
  have hcheck : encodeCheck { withUnread u s with k := u.k } = encodeCheck s := encodeCheck_congr rfl rfl rfl
  have hstart : encodeStart { withUnread u s with k := u.k } = withUnread u (encodeStart s) := rfl
  refine (execEncode_eq _).trans ?_
  rw [hcheck, hstart, packSteps_withUnread]
  rcases exec_cases h with ⟨e, -, he, rfl⟩ | ⟨-, he, rfl⟩ | ⟨⟨⟩, -⟩ | ⟨⟨⟩, -⟩ | ⟨⟨⟩, -⟩
  · rw [he]
    rfl
  · rw [he]
    rfl

/-! ### What DECODE does not read -/

theorem unpackRead_setStatus (s : State) (st : Status) :
    unpackRead { s with status := st } = { unpackRead s with status := st } := by
  simp only [unpackRead, readByte, State.mem]
  split <;> rfl

/-- Unpacking neither reads nor writes STATUS. -/
theorem unpackSteps_setStatus (n : Nat) (cs : List Byte) (s : State) (st : Status) :
    unpackSteps n cs { s with status := st } =
      ((unpackSteps n cs s).1, { (unpackSteps n cs s).2 with status := st }) := by
  induction n generalizing cs s with
  | zero => rfl
  | succ n ih =>
    simp only [unpackSteps, unpackRead_setStatus]
    split
    · split
      · rfl
      · exact ih (cs ++ [(unpackRead s).acc]) (keepByte (unpackRead s))
    · exact ih cs (unpackRead s)

theorem writeText_setStatus (a : Nat) (vs : List Byte) (s : State) (st : Status) :
    writeText a vs { s with status := st } = { writeText a vs s with status := st } := by
  induction vs generalizing a s with
  | nil => rfl
  | cons v vs ih => exact ih (a + 1) (writeByte .out a v s)

/-- Delivery overwrites STATUS without reading it. -/
theorem deliver_setStatus (cs : List Byte) (s : State) (st : Status) :
    deliver cs { s with status := st } = deliver cs s := by
  simp only [deliver, writeText_setStatus]
  rfl

theorem execDecode_setStatus (s : State) (st : Status) : execDecode { s with status := st } = execDecode s := by
  have hu : unpack (decodeStart { s with status := st }) =
      ((unpack (decodeStart s)).1, { (unpack (decodeStart s)).2 with status := st }) :=
    unpackSteps_setStatus _ _ (decodeStart s) st
  have hv : decValid (decodeStart { s with status := st }) = decValid (decodeStart s) := rfl
  simp only [execDecode, hu, hv, deliver_setStatus]
  rfl

/-! ### The statements -/

/-! ### STATUS and the working registers -/

theorem execEncode_setStatus (s : State) (st : Status) : exec .encode { s with status := st } = exec .encode s := by
  obtain ⟨t, ht⟩ := execEncode_answers s
  exact (execEncode_ignores { s with status := st } ht).trans (execEncode_ignores s ht).symm

/-- Settles O38: ENCODE clears K and does not touch ACC, CLEN and MOK; DECODE starts by writing all four. -/
theorem workingRegistersCarryNothing : Obligations.WorkingRegistersCarryNothing := by
  refine fun s k clen acc mok => ⟨fun t ht => ?_, rfl⟩
  have h := execEncode_ignores { s with k := k, acc := acc, clen := clen, mok := mok } ht
  rw [execEncode_frame ht] at h ⊢
  exact h

/-- Settles O37: each end of each command writes both fields of STATUS, and nothing before it reads them. -/
theorem statusNeverSteersCommand : Obligations.StatusNeverSteersCommand := by
  intro i s st
  cases i with
  | encode => exact execEncode_setStatus s st
  | decode => exact execDecode_setStatus s st

end Sys2Proof.Machine
end

section
/-! PROOFS. What each host access to a register or to a byte does (spec/10_state.md R11 to R18, R27). -/

namespace Sys2Proof.Machine

/-! ### Registers -/

/-- The STATUS word as a number: CODE in bits 2:0, bit 3 zero, OP in bits 5:4 (R12). -/
theorem Status.word_toNat (st : Status) : st.word.toNat = st.code.number + 16 * st.op.number := by
  obtain ⟨op, code | e⟩ := st
  · cases op <;> rfl
  · cases op <;> cases e <;> rfl

/-- A host read of a register appends its value to the answers (R33). -/
theorem step_of_readReg {s : State} {i n : Nat} {rest : List HostAccess} (hs : s.script = .readReg i :: rest)
    (hn : regValue i s = some n) : step s = .next { s with script := rest, answers := s.answers ++ [n] } := by
  have hn' : regValue i { s with script := rest } = some n := hn
  rw [step_of_script hs]
  show readReg i { s with script := rest } = _
  rw [readReg, hn']
  rfl

theorem step_of_writeReg {s : State} {i v : Nat} {rest : List HostAccess} (hs : s.script = .writeReg i v :: rest) :
    step s = writeReg i v { s with script := rest } :=
  step_of_script hs

/-- Settles O44: the values are those of `regValue`, and STATUS reads as the number of its word. -/
theorem registerReadsReturnValue : Obligations.RegisterReadsReturnValue := by
  intro s i rest hs hi
  match i, hi with
  | 0, _ => exact ⟨0, step_of_readReg hs rfl, by simp⟩
  | 1, _ => exact ⟨s.status.word.toNat, step_of_readReg hs rfl, by simp [Status.word_toNat]⟩
  | 2, _ => exact ⟨s.pixLen, step_of_readReg hs rfl, by simp⟩
  | 3, _ => exact ⟨s.msgLen, step_of_readReg hs rfl, by simp⟩
  | 4, _ => exact ⟨s.outLen, step_of_readReg hs rfl, by simp⟩

/-- Settles O45: STATUS and OUT_LEN ignore the write, a length register takes the values that fit. -/
theorem registerWritesRespectAccessRights : Obligations.RegisterWritesRespectAccessRights := by
  intro s i v rest hs
  have hstep := step_of_writeReg hs
  refine ⟨?_, ?_, ?_⟩
  · rintro (rfl | rfl) <;> exact hstep
  · rintro rfl
    exact hstep
  · rintro rfl
    exact hstep

/-- Settles O6: every field has its value of R27, and an empty memory holds no byte. -/
theorem resetValues : Obligations.ResetValues := by
  refine fun c => ⟨rfl, Status.word_none, rfl, rfl, rfl, rfl, fun sp a => ?_⟩
  cases sp <;> rfl

/-! ### Bytes of the memories -/

@[simp] theorem mem_setScript (s : State) (rest : List HostAccess) (sp : Space) :
    { s with script := rest }.mem sp = s.mem sp := rfl

/-- What each byte of each memory reads as after a write to one of them (R33). -/
theorem writeByte_mem_read (sp sp' : Space) (a b : Nat) (v : Byte) (s : State) :
    ((writeByte sp a v s).mem sp').read b = if sp' = sp ∧ b = a then some v else (s.mem sp').read b := by
  cases sp <;> cases sp' <;> simp [Memory.read_write]

/-- A host write inside PIX or MSG stores the byte; one inside OUT is ignored (R16 to R18). -/
theorem step_of_writeByte {s : State} {sp : Space} {a : Nat} {v : Byte} {rest : List HostAccess}
    (hs : s.script = .writeByte sp a v :: rest) (ha : a < s.cfg.size sp) :
    step s = .next (if sp = .out then { s with script := rest } else writeByte sp a v { s with script := rest }) := by
  refine (step_of_script hs).trans ((if_pos ha).trans ?_)
  cases sp <;> rfl

/-- A host read inside a memory appends the byte read to the answers (R33). -/
theorem step_of_readByte {s : State} {sp : Space} {a : Nat} {rest : List HostAccess}
    (hs : s.script = .readByte sp a :: rest) (ha : a < s.cfg.size sp) :
    step s =
      .next (answer (readByte sp a { s with script := rest }).1.toNat (readByte sp a { s with script := rest }).2) :=
  (step_of_script hs).trans (if_pos ha)

/-- Settles O46: a write stores one byte in PIX or MSG, and a read of a written byte draws no free value. -/
theorem byteAccessesReadAndWriteOneByte : Obligations.ByteAccessesReadAndWriteOneByte := by
  constructor
  · intro s sp a v rest hs ha
    refine ⟨_, step_of_writeByte hs ha, ?_, fun sp' b => ?_⟩
    · cases sp <;> rfl
    · by_cases hsp : sp = .out
      · simp [hsp]
      · simp [hsp, writeByte_mem_read]
  · intro s sp a v rest hs ha hv
    rw [step_of_readByte hs ha, readByte_of_read (s := { s with script := rest }) hv]
    rfl

end Sys2Proof.Machine
end

section
/-! PROOFS. Which bytes of the memories a command can change, and the enumeration of the usable channels
(spec/20_memory.md R31, R35, R36). -/

namespace Sys2Proof.Machine

/-! ### Channel addresses -/

/-- No channel is an alpha byte (R31, R35). -/
theorem chanAddr_mod_four_ne_three (k : Nat) : chanAddr k % 4 ≠ 3 := by
  unfold chanAddr
  omega

/-- Of two channels the later one has the higher index (R35). -/
theorem chanAddr_strictMono : StrictMono chanAddr := by
  intro j k h
  unfold chanAddr
  omega

/-- The byte with index `a`, when it is no alpha byte, is the channel `a % 4` of pixel `a / 4` (R31, R35). -/
theorem chanAddr_of_mod_four_ne_three {a : Nat} (h : a % 4 ≠ 3) : chanAddr (3 * (a / 4) + a % 4) = a := by
  unfold chanAddr
  omega

/-- The channels of `p` pixels are the channels that lie in their bytes (R35). -/
theorem chanAddr_lt_iff (k p : Nat) : chanAddr k < 4 * p ↔ k < 3 * p := by
  unfold chanAddr
  omega

/-- Settles O19: an index that is not 3 mod 4 is a channel, and the channels of `p` pixels are those below `3 * p`. -/
theorem channelAddressesEnumerateRgb : Obligations.ChannelAddressesEnumerateRgb := by
  refine ⟨fun k => rfl, chanAddr_mod_four_ne_three, fun j k h => chanAddr_strictMono h, fun p a => ⟨?_, ?_⟩⟩
  · rintro ⟨hlt, hrgb⟩
    have haddr := chanAddr_of_mod_four_ne_three hrgb
    exact ⟨3 * (a / 4) + a % 4, (chanAddr_lt_iff _ p).1 (by rwa [haddr]), haddr⟩
  · rintro ⟨k, hk, rfl⟩
    exact ⟨(chanAddr_lt_iff k p).2 hk, chanAddr_mod_four_ne_three k⟩

/-! ### The bytes a command leaves alone -/

/-- ENCODE leaves every byte of PIX alone but those of the frame's channels, and all of them when it fails (R80, R86). -/
theorem execEncode_read_other {s t : State} (h : exec .encode s = .next t) {a : Nat}
    (ha : ∀ k, k < nbits s.msgLen → a ≠ chanAddr k) : t.pix.read a = s.pix.read a := by
  rcases exec_cases h with ⟨e, -, -, rfl⟩ | ⟨-, -, rfl⟩ | ⟨⟨⟩, -⟩ | ⟨⟨⟩, -⟩ | ⟨⟨⟩, -⟩
  · rfl
  · rw [encodeDone_pix]
    refine packSteps_read_other _ (encodeStart s) a fun k _ hk => ha k ?_
    rwa [encodeStart_k, Nat.zero_add] at hk

/-- Settles O14: its frame, and the bytes of PIX that are no channel of the frame. -/
theorem encodeFrameCondition : Obligations.EncodeFrameCondition :=
  fun _ _ h => ⟨execEncode_frame h, fun _ => execEncode_read_other h⟩

/-- Every end of DECODE leaves the bytes of OUT at the new OUT_LEN and above alone; a failed one sets OUT_LEN to 0 and
stores nothing (R106, R107). -/
theorem execDecode_read_above {s t : State} (h : exec .decode s = .next t) {a : Nat} (ha : t.outLen ≤ a) :
    t.out.read a = s.out.read a := by
  have hout : (unpack (decodeStart s)).2.out = s.out := by rw [unpack_state, decodeStart_out]
  rcases exec_cases h with ⟨e, ⟨⟩, -⟩ | ⟨⟨⟩, -⟩ | ⟨-, -, rfl⟩ | ⟨-, -, -, rfl⟩ | ⟨-, -, -, -, rfl⟩
  · rfl
  · rw [raiseDecode_out, hout]
  · rw [decodeDone_outLen] at ha
    rw [decodeDone_out, writeText_read, if_neg (by omega), hout]

/-- Settles O24: its frame, and the bytes of OUT above the text. -/
theorem decodeFrameCondition : Obligations.DecodeFrameCondition :=
  fun _ _ h => ⟨execDecode_frame h, fun _ => execDecode_read_above h⟩

end Sys2Proof.Machine
end

section
/-! PROOFS. What DECODE does not read: MSG and MSG_LEN (spec/30_encoding.md R54; spec/42_decoder.md R101). Putting
another message there before the command's loop is the same as putting it there after it. -/

namespace Sys2Proof.Machine

/-- `s` with another message operand. -/
def withMessage (m : Memory) (n : Nat) (s : State) : State := { s with msg := m, msgLen := n }

theorem unpackRead_withMessage (m : Memory) (n : Nat) (s : State) :
    unpackRead (withMessage m n s) = withMessage m n (unpackRead s) := by
  have hpix : (withMessage m n s).mem .pix = s.mem .pix := rfl
  have hk : (withMessage m n s).k = s.k := rfl
  simp only [unpackRead, readByte, hpix, hk]
  split <;> rfl

/-- Unpacking neither reads nor writes the message. -/
theorem unpackSteps_withMessage (m : Memory) (n j : Nat) (cs : List Byte) (s : State) :
    unpackSteps j cs (withMessage m n s) = ((unpackSteps j cs s).1, withMessage m n (unpackSteps j cs s).2) := by
  induction j generalizing cs s with
  | zero => rfl
  | succ j ih =>
    have hk : (withMessage m n (unpackRead s)).k = (unpackRead s).k := rfl
    have hacc : (withMessage m n (unpackRead s)).acc = (unpackRead s).acc := rfl
    simp only [unpackSteps, unpackRead_withMessage, hk, hacc]
    split
    · split
      · rfl
      · exact ih (cs ++ [(unpackRead s).acc]) (keepByte (unpackRead s))
    · exact ih cs (unpackRead s)

theorem unpack_withMessage (m : Memory) (n : Nat) (s : State) :
    unpack (decodeStart (withMessage m n s)) =
      ((unpack (decodeStart s)).1, withMessage m n (unpack (decodeStart s)).2) :=
  unpackSteps_withMessage m n _ [] (decodeStart s)

theorem writeText_withMessage (m : Memory) (n a : Nat) (vs : List Byte) (s : State) :
    writeText a vs (withMessage m n s) = withMessage m n (writeText a vs s) := by
  induction vs generalizing a s with
  | nil => rfl
  | cons v vs ih => exact ih (a + 1) (writeByte .out a v s)

/-- A delivery that fits OUT fits it whatever the message is, and leaves that message alone. -/
theorem deliver_withMessage (m : Memory) (n : Nat) {cs : List Byte} {s t : State} (h : deliver cs s = .next t) :
    deliver cs (withMessage m n s) = .next (withMessage m n t) := by
  obtain ⟨hfits, rfl⟩ := deliver_next h
  rw [deliver_eq (s := withMessage m n s) hfits, writeText_withMessage]
  rfl

/-- DECODE as one equation: the validity of the lengths, then the Marker, decide how it ends (R100). -/
theorem execDecode_eq (s : State) :
    execDecode s =
      if decValid s = true then
        if markerOk (unpack (decodeStart s)).1 = true then deliver (unpack (decodeStart s)).1 (unpack (decodeStart s)).2
        else .next (raise .decode .noHiddenMessage (unpack (decodeStart s)).2)
      else .next (raise .decode .invalidInput (decodeStart s)) :=
  rfl

/-- DECODE reads neither MSG nor MSG_LEN: its validation, its unpacking and its delivery do not (R101). -/
theorem execDecode_withMessage (m : Memory) (n : Nat) {s t : State} (h : execDecode s = .next t) :
    execDecode (withMessage m n s) = .next (withMessage m n t) := by
  have hvalid : decValid (withMessage m n s) = decValid s := rfl
  rw [execDecode_eq] at h ⊢
  rw [hvalid, unpack_withMessage]
  split at h
  case isTrue hv =>
    rw [if_pos hv]
    split at h
    case isTrue hm =>
      rw [if_pos hm]
      exact deliver_withMessage m n h
    case isFalse hm =>
      rw [if_neg hm]
      cases h
      rfl
  case isFalse hv =>
    rw [if_neg hv]
    cases h
    rfl

/-- Settles O39: OUT and OUT_LEN are among the fields ENCODE does not read, and the message is what DECODE does not. -/
theorem commandsIgnoreOtherOperands : Obligations.CommandsIgnoreOtherOperands := by
  refine ⟨fun s t o n ht => ?_, fun s t m n ht => execDecode_withMessage m n ht⟩
  have h := execEncode_ignores { s with out := o, outLen := n } ht
  rw [execEncode_frame ht] at h ⊢
  exact h

end Sys2Proof.Machine
end

section
/-! PROOFS. The host's pseudo-operations LOADPIX, LOADMSG and READTEXT, run access by access (spec/30_encoding.md R61,
R62). -/

namespace Sys2Proof.Machine

/-! ### Storing a sequence of bytes -/

/-- A memory after a sequence of bytes is stored at consecutive indices from `a` on. -/
def Memory.writeFrom : Memory → Nat → List Byte → Memory
  | m, _, [] => m
  | m, a, v :: vs => (m.write a v).writeFrom (a + 1) vs

/-- The bytes below the first index stored are the old ones. -/
theorem Memory.writeFrom_read_below (m : Memory) {a b : Nat} (h : b < a) (vs : List Byte) :
    (m.writeFrom a vs).read b = m.read b := by
  induction vs generalizing m a with
  | nil => rfl
  | cons v vs ih => rw [writeFrom, ih _ (by omega), read_write_other m v (by omega)]

/-- From the first index stored on, a byte is that of the sequence, or the old one after its end. -/
theorem Memory.writeFrom_read_add (m : Memory) (a i : Nat) (vs : List Byte) :
    (m.writeFrom a vs).read (a + i) = vs[i]?.or (m.read (a + i)) := by
  induction vs generalizing m a i with
  | nil => rfl
  | cons v vs ih =>
    rw [writeFrom]
    cases i with
    | zero => rw [writeFrom_read_below _ (by omega), Nat.add_zero, read_write_same]; rfl
    | succ i =>
      rw [show a + (i + 1) = a + 1 + i by omega, ih, read_write_other m v (by omega), List.getElem?_cons_succ]

/-- The bytes of a sequence stored from index 0 on. -/
theorem Memory.writeFrom_zero_read_lt (m : Memory) {i : Nat} {vs : List Byte} (h : i < vs.length) :
    (m.writeFrom 0 vs).read i = vs[i]? := by
  rw [← Nat.zero_add i, writeFrom_read_add, Nat.zero_add, List.getElem?_eq_getElem h, Option.some_or]

/-- The bytes after the end of a sequence stored from index 0 on. -/
theorem Memory.writeFrom_zero_read_ge (m : Memory) {i : Nat} {vs : List Byte} (h : vs.length ≤ i) :
    (m.writeFrom 0 vs).read i = m.read i := by
  rw [← Nat.zero_add i, writeFrom_read_add, Nat.zero_add, List.getElem?_eq_none h, Option.none_or]

/-! ### Runs of byte writes -/

/-- `s` with another memory for space `sp`. -/
def setMem (sp : Space) (m : Memory) (s : State) : State :=
  match sp with
  | .pix => { s with pix := m }
  | .msg => { s with msg := m }
  | .out => { s with out := m }

@[simp] theorem writeByte_cfg (sp : Space) (a : Nat) (v : Byte) (s : State) : (writeByte sp a v s).cfg = s.cfg := by
  cases sp <;> rfl

@[simp] theorem writeByte_script (sp : Space) (a : Nat) (v : Byte) (s : State) :
    (writeByte sp a v s).script = s.script := by
  cases sp <;> rfl

@[simp] theorem setMem_script (sp : Space) (m : Memory) (s : State) : (setMem sp m s).script = s.script := by
  cases sp <;> rfl

/-- Storing one byte and then the rest of a sequence, with the accesses taken one by one, is storing the sequence. -/
theorem setMem_writeFrom_cons (sp : Space) (a : Nat) (v : Byte) (vs : List Byte) (s : State)
    (pending rest : List HostAccess) :
    setMem sp (((writeByte sp a v { s with script := pending }).mem sp).writeFrom (a + 1) vs)
        { writeByte sp a v { s with script := pending } with script := rest } =
      setMem sp ((s.mem sp).writeFrom a (v :: vs)) { s with script := rest } := by
  cases sp <;> rfl

/-- Host writes of consecutive bytes inside PIX or MSG store them, one step for each. -/
theorem run_writeBytes {sp : Space} (hsp : sp ≠ .out) {s : State} {a n : Nat} {vs : List Byte} {rest : List HostAccess}
    (hs : s.script = writeBytes sp a vs ++ rest) (hfit : a + vs.length ≤ s.cfg.size sp) :
    core.run (vs.length + n) s = core.run n (setMem sp ((s.mem sp).writeFrom a vs) { s with script := rest }) := by
  induction vs generalizing s a with
  | nil =>
    obtain rfl : s.script = rest := hs
    rw [List.length_nil, Nat.zero_add]
    cases sp <;> rfl
  | cons v vs ih =>
    rw [List.length_cons] at hfit ⊢
    have hstep : step s = .next (writeByte sp a v { s with script := writeBytes sp (a + 1) vs ++ rest }) :=
      (step_of_writeByte hs (by omega)).trans (congrArg _ (if_neg hsp))
    have htail : a + 1 + vs.length ≤ s.cfg.size sp := by omega
    rw [Nat.add_right_comm, core_run_succ hstep, ih (writeByte_script ..) (by rwa [writeByte_cfg]),
      setMem_writeFrom_cons]

/-- A length line run after the bytes of its memory: the run of LOADPIX or LOADMSG (R62). -/
theorem run_load {sp : Space} (hsp : sp ≠ .out) {s t : State} {bs : List Byte} {a : HostAccess} {rest : List HostAccess}
    (hs : s.script = writeBytes sp 0 bs ++ [a] ++ rest) (hfit : bs.length ≤ s.cfg.size sp)
    (ha : hostAccess a (setMem sp ((s.mem sp).writeFrom 0 bs) { s with script := rest }) = .next t) :
    core.run (bs.length + 1) s = .next t := by
  rw [List.append_assoc] at hs
  rw [run_writeBytes hsp hs (by omega)]
  refine core_run_succ ((step_of_script (setMem_script ..)).trans ?_)
  cases sp <;> exact ha

/-- Settles O51: the byte writes one by one, by induction on the bytes, and then the write of the length. -/
theorem loadLinesStoreOperands : Obligations.LoadLinesStoreOperands := by
  constructor
  · intro s bs rest hfit hlen hs
    exact ⟨_, run_load (by decide) hs hfit (if_pos hlen), rfl, fun _ => Memory.writeFrom_zero_read_lt s.pix,
      fun _ => Memory.writeFrom_zero_read_ge s.pix⟩
  · intro s bs rest hfit hlen hs
    exact ⟨_, run_load (by decide) hs hfit (if_pos hlen), rfl, ⟨rfl, fun _ => Memory.writeFrom_zero_read_lt s.msg⟩,
      fun _ => Memory.writeFrom_zero_read_ge s.msg⟩

/-! ### Runs of byte reads -/

/-- The byte a written index reads as. -/
theorem read_eq_some_getD {m : Memory} {a : Nat} (h : ∃ v, m.read a = some v) : m.read a = some ((m.read a).getD 0) := by
  obtain ⟨v, hv⟩ := h
  rw [hv]
  rfl

/-- Host reads of written bytes append them to the answers and change nothing else (R33). -/
theorem run_readBytes {sp : Space} {s : State} {as : List Nat} {rest : List HostAccess}
    (hs : s.script = as.map (fun a => lineRd sp a) ++ rest)
    (hread : ∀ a ∈ as, a < s.cfg.size sp ∧ ∃ v, (s.mem sp).read a = some v) :
    core.run as.length s =
      .next { s with script := rest
                     answers := s.answers ++ as.map (fun a => (((s.mem sp).read a).getD 0).toNat) } := by
  induction as generalizing s with
  | nil =>
    obtain rfl : s.script = rest := hs
    rw [List.map_nil, List.append_nil]
    rfl
  | cons a as ih =>
    obtain ⟨⟨ha, hv⟩, htail⟩ := List.forall_mem_cons.1 hread
    have hstep := byteAccessesReadAndWriteOneByte.2 s sp a _ _ hs ha (read_eq_some_getD hv)
    rw [List.length_cons, core_run_succ hstep, ih rfl, List.append_assoc]
    · cases sp <;> rfl
    · cases sp <;> exact htail

/-- Settles O52: the read of OUT_LEN, then the reads of the text, whose bytes the invariant says are written. -/
theorem readTextReturnsDeliveredText : Obligations.ReadTextReturnsDeliveredText := by
  intro s rest htext hfit hs
  have hstep := step_of_readReg hs (n := s.outLen) rfl
  have hread : ∀ a ∈ List.range s.outLen, a < s.cfg.outMax ∧ ∃ v, s.out.read a = some v := by
    intro a ha
    have hlt := List.mem_range.1 ha
    obtain ⟨v, hv, -⟩ := htext.text_written a hlt
    exact ⟨Nat.lt_of_lt_of_le hlt hfit, v, hv⟩
  have hrun := run_readBytes (sp := .out)
    (s := { s with script := readBytes .out s.outLen ++ rest, answers := s.answers ++ [s.outLen] }) rfl hread
  rw [List.length_range, List.append_assoc] at hrun
  exact (core_run_succ hstep).trans hrun

end Sys2Proof.Machine
end

section
/-! PROOFS. The command word (spec/30_encoding.md R50 to R53): which values name a command, and what a reserved one
does. -/

namespace Sys2Proof.Machine

/-- A value decodes to a command exactly when it is the command's word. -/
theorem decodeWord_eq_ok_iff {v : Nat} {i : Instr} : decodeWord v = .ok i ↔ v = encodeWord i :=
  ⟨eq_encodeWord_of_decodeWord, fun h => h ▸ decodeWord_encodeWord i⟩

/-- A value other than 1 and 2 names no command (R53). -/
theorem decodeWord_of_reserved {v : Nat} (h1 : v ≠ 1) (h2 : v ≠ 2) : ∃ e, decodeWord v = .error e := by
  cases h : decodeWord v with
  | error e => exact ⟨e, rfl⟩
  | ok i =>
    have hv := decodeWord_eq_ok_iff.1 h
    cases i with
    | encode => exact absurd hv h1
    | decode => exact absurd hv h2

/-- Settles O1: six values, evaluated. -/
theorem commandWordsDecode : Obligations.CommandWordsDecode := by
  unfold Obligations.CommandWordsDecode
  decide

/-- Settles O2: a value decodes to a command exactly when it is its word, and the words are 1 and 2. -/
theorem commandValuesAreOneAndTwo : Obligations.CommandValuesAreOneAndTwo :=
  ⟨fun _ => decodeWord_eq_ok_iff, fun _ => decodeWord_eq_ok_iff,
    fun _ _ => ⟨fun hs => step_of_command hs (decodeWord_encodeWord .encode),
      fun hs => step_of_command hs (decodeWord_encodeWord .decode)⟩⟩

/-- Settles O3: both ways of the same equivalence. -/
theorem commandCodecRoundTrip : Obligations.CommandCodecRoundTrip :=
  ⟨fun i _ => decodeWord_encodeWord i, fun _ _ => decodeWord_eq_ok_iff.1⟩

/-- A write to CMD of a value that names no command writes STATUS and nothing else (R53). -/
theorem step_of_reserved {s : State} {v : Nat} {rest : List HostAccess} {e : DecodeError}
    (hs : s.script = .writeReg 0 v :: rest) (hv : decodeWord v = .error e) :
    step s = .next (setStatus .illegal (.error .invalidInput) { s with script := rest }) := by
  refine (step_of_writeReg hs).trans ?_
  show runCommand v _ = _
  rw [runCommand, hv]
  rfl

/-- Settles O5: a value that is neither word names no command. -/
theorem reservedCommandOnlySetsStatus : Obligations.ReservedCommandOnlySetsStatus := by
  intro s v rest hs h1 h2
  obtain ⟨e, hv⟩ := decodeWord_of_reserved h1 h2
  exact ⟨step_of_reserved hs hv, Status.word_illegal⟩

end Sys2Proof.Machine
end

section
/-! PROOFS. The Frame Builder (spec/40_frame_builder.md): the bytes of a frame, its bits, and the first zero byte of
it. -/

namespace Sys2Proof.Machine

/-! ### The bytes of a frame -/

@[simp] theorem marker_length : marker.length = 6 := rfl

/-- The frame as the Marker followed by the rest. -/
theorem frame_eq (m : List Byte) : frame m = marker ++ (m ++ [terminator]) := List.append_assoc ..

@[simp] theorem frame_length (m : List Byte) : (frame m).length = m.length + 7 := by
  simp only [frame_eq, List.length_append, marker_length, List.length_singleton]
  omega

/-- The first six frame bytes are the Marker (R73). -/
theorem frame_getElem?_marker (m : List Byte) {j : Nat} (h : j < 6) : (frame m)[j]? = marker[j]? :=
  frame_eq m ▸ List.getElem?_append_left h

/-- The frame bytes after the Marker are the message and the Terminator. -/
theorem frame_getElem?_rest (m : List Byte) {j : Nat} (h : 6 ≤ j) : (frame m)[j]? = (m ++ [terminator])[j - 6]? :=
  frame_eq m ▸ List.getElem?_append_right h

/-- The message's bytes in the frame (R73). -/
theorem frame_getElem?_message (m : List Byte) {j : Nat} (h : 6 ≤ j) (hlt : j < 6 + m.length) :
    (frame m)[j]? = m[j - 6]? := by
  rw [frame_getElem?_rest m h, List.getElem?_append_left (by omega)]

/-- The byte after the message is the Terminator (R73). -/
theorem frame_getElem?_terminator (m : List Byte) : (frame m)[6 + m.length]? = some terminator := by
  rw [frame_getElem?_rest m (by omega), Nat.add_sub_cancel_left, List.getElem?_concat_length]

/-- No Marker byte is zero, and the Terminator ends the search when the message has no zero byte either (R75). -/
theorem frame_findIdx_zero (m : List Byte) :
    (frame m).findIdx (fun v => v == 0) = 6 + m.findIdx (fun v => v == 0) := by
  have hmarker : marker.findIdx (fun v => v == 0) = 6 := by decide
  have hrest : (m ++ [terminator]).findIdx (fun v => v == 0) = m.findIdx (fun v => v == 0) := by
    have hterm : [terminator].findIdx (fun v => v == 0) = 0 := by decide
    have hle := List.findIdx_le_length (p := fun v : Byte => v == 0) (xs := m)
    rw [List.findIdx_append, hterm]
    split <;> omega
  rw [frame_eq, List.findIdx_append, hmarker, hrest, marker_length, if_neg (by omega), Nat.add_comm]

/-! ### The bits of a frame -/

/-- A bit of a byte, by shift and mask (R73). -/
theorem msbBit_eq_shift (v : Byte) (i : Nat) : msbBit v i = (v >>> (7 - i) &&& 1 == 1) := by
  have hbit : v.getLsbD (7 - i) = (v >>> (7 - i)).getLsbD 0 := by simp
  have hmask : v >>> (7 - i) &&& 1 = BitVec.setWidth 8 (BitVec.ofBool ((v >>> (7 - i)).getLsbD 0)) :=
    BitVec.and_one_eq_setWidth_ofBool_getLsbD
  rw [msbBit, hbit, hmask]
  cases (v >>> (7 - i)).getLsbD 0 <;> rfl

@[simp] theorem byteBits_length (v : Byte) : (byteBits v).length = 8 := rfl

/-- Element `i` of the bits of a byte (R71). -/
theorem byteBits_getElem? (v : Byte) {i : Nat} (h : i < 8) : (byteBits v)[i]? = some (msbBit v i) := by
  interval_cases i <;> rfl

theorem flatMap_byteBits_length (bs : List Byte) : (bs.flatMap byteBits).length = 8 * bs.length := by
  simp [List.length_flatMap, Nat.mul_comm]

/-- Bit `k` of a byte sequence stands in its byte `k / 8`, at place `k % 8` (R72, R73). -/
theorem flatMap_byteBits_getElem? (bs : List Byte) (k : Nat) :
    (bs.flatMap byteBits)[k]? = bs[k / 8]?.map (fun v => msbBit v (k % 8)) := by
  induction bs generalizing k with
  | nil => rfl
  | cons v bs ih =>
    rw [List.flatMap_cons]
    by_cases h : k < 8
    · rw [List.getElem?_append_left h, byteBits_getElem? v h, Nat.div_eq_of_lt h, Nat.mod_eq_of_lt h]
      rfl
    · have hdiv : k / 8 = (k - 8) / 8 + 1 := by omega
      have hmod : k % 8 = (k - 8) % 8 := by omega
      rw [List.getElem?_append_right (Nat.le_of_not_lt h), byteBits_length, ih, hdiv, hmod, List.getElem?_cons_succ]

theorem nbits_eq_frame_length (m : List Byte) : nbits m.length = 8 * (frame m).length := by
  simp only [nbits, frameLen, frame_length]
  omega

@[simp] theorem frameBits_length (m : List Byte) : (frameBits m).length = nbits m.length := by
  rw [frameBits, flatMap_byteBits_length, nbits_eq_frame_length]

/-- `FrameBit` is the element of `FrameBits` (R73). -/
theorem frameBits_getElem? (m : List Byte) {k : Nat} (h : k < nbits m.length) :
    (frameBits m)[k]? = some (frameBit m k) := by
  have hbyte : k / 8 < (frame m).length := by
    rw [nbits_eq_frame_length] at h
    omega
  rw [frameBits, flatMap_byteBits_getElem?, frameBit, List.getElem?_eq_getElem hbyte,
    List.getD_eq_getElem _ _ hbyte, Option.map_some]

/-- The first 48 frame bits are the bits of the Marker, whatever the message (R75). -/
theorem frameBits_take_marker (m : List Byte) : (frameBits m).take 48 = marker.flatMap byteBits := by
  rw [frameBits, frame_eq, List.flatMap_append]
  exact List.take_left' (flatMap_byteBits_length marker)

/-- Settles O17: the bits of each frame byte in turn, and the three parts of the frame. -/
theorem frameBitIsElementOfFrameBits : Obligations.FrameBitIsElementOfFrameBits := by
  intro m
  refine ⟨frame_length m, frameBits_length m, fun k => frameBits_getElem? m, fun k => msbBit_eq_shift _ _,
    fun j => frame_getElem?_marker m, fun j => frame_getElem?_message m, ?_⟩
  rw [List.getD_eq_getElem?_getD, frame_getElem?_terminator]
  rfl

/-- Settles O18: the Marker's bits come first, and the first zero byte is the message's or the Terminator. -/
theorem frameBeginsWithMarkerBits : Obligations.FrameBeginsWithMarkerBits := by
  refine fun m => ⟨?_, frame_findIdx_zero m⟩
  rw [frameBits_take_marker]
  decide

end Sys2Proof.Machine
end

section
/-! PROOFS. The bits a successful ENCODE embeds: those of the message's frame (spec/40_frame_builder.md R74,
spec/41_encoder.md R85, R86). -/

namespace Sys2Proof.Machine

/-! ### Packing -/

/-- Packing a bit puts it into bit 0 (R85). -/
@[simp] theorem packBit_getLsbD_zero (v : Byte) (b : Bool) : (packBit v b).getLsbD 0 = b := by
  unfold packBit
  cases b <;> simp

/-- Pack steps leave the message operand alone. -/
theorem packSteps_messageIs {s : State} {m : List Byte} (h : s.MessageIs m) (n : Nat) :
    (packSteps n s).MessageIs m := by
  rw [packSteps_state]
  exact h

/-- A pack step puts the frame's bit into bit 0 of the channel at the cursor (R85). -/
theorem packStep_read_cursor {s : State} {m : List Byte} (h : s.MessageIs m) :
    ∃ v, (packStep s).pix.read (chanAddr s.k) = some v ∧ v.getLsbD 0 = frameBit m s.k := by
  obtain ⟨hlen, hbytes⟩ := h
  refine ⟨_, by rw [packStep_pix, Memory.read_write_same], ?_⟩
  rw [packBit_getLsbD_zero, readFrameBit_of_message (by simpa using hlen) (by simpa using hbytes)]

/-- A pack step leaves every channel but the one at the cursor alone. -/
theorem packStep_read_chanAddr_other {s : State} {k : Nat} (h : k ≠ s.k) :
    (packStep s).pix.read (chanAddr k) = s.pix.read (chanAddr k) := by
  rw [packStep_pix, Memory.read_write_other _ _ fun ha => h (chanAddr_strictMono.injective ha)]

/-- After `n` pack steps the `n` channels from the cursor on carry the frame's bits (R85, R91). -/
theorem packSteps_read_frameBit {s : State} {m : List Byte} (h : s.MessageIs m) {n k : Nat} (hlo : s.k ≤ k)
    (hhi : k < s.k + n) : ∃ v, (packSteps n s).pix.read (chanAddr k) = some v ∧ v.getLsbD 0 = frameBit m k := by
  induction n with
  | zero => omega
  | succ n ih =>
    have hcursor : (packSteps n s).k = s.k + n := by rw [packSteps_state]
    rw [packSteps_succ]
    by_cases hk : k = (packSteps n s).k
    · rw [hk]
      exact packStep_read_cursor (packSteps_messageIs h n)
    · rw [packStep_read_chanAddr_other hk]
      exact ih (by omega)

/-! ### The command -/

/-- A successful ENCODE of a written message leaves the frame's bits in bit 0 of the first channels (R86). -/
theorem execEncode_read_frameBit {s t : State} {m : List Byte} (hm : s.MessageIs m) (h : exec .encode s = .next t)
    (hok : t.status.code = .ok) {k : Nat} (hk : k < nbits m.length) :
    ∃ v, t.pix.read (chanAddr k) = some v ∧ v.getLsbD 0 = frameBit m k := by
  rcases exec_cases h with ⟨e, -, -, rfl⟩ | ⟨-, -, rfl⟩ | ⟨⟨⟩, -⟩ | ⟨⟨⟩, -⟩ | ⟨⟨⟩, -⟩
  · cases hok
  · have hlen : s.msgLen = m.length := hm.1
    rw [encodeDone_pix, hlen]
    exact packSteps_read_frameBit (s := encodeStart s) hm (Nat.zero_le k) (by rwa [encodeStart_k, Nat.zero_add])

theorem chanBit_of_read {p : Memory} {k : Nat} {v : Byte} (h : p.read (chanAddr k) = some v) :
    chanBit p k = v.getLsbD 0 := by
  rw [chanBit, h]

/-- The channel bits after a successful ENCODE depend on the message alone (R74). -/
theorem execEncode_chanBit {s t : State} {m : List Byte} (hm : s.MessageIs m) (h : exec .encode s = .next t)
    (hok : t.status.code = .ok) {k : Nat} (hk : k < nbits m.length) : chanBit t.pix k = frameBit m k := by
  obtain ⟨v, hv, hbit⟩ := execEncode_read_frameBit hm h hok hk
  rw [chanBit_of_read hv, hbit]

/-- Settles O16: both ENCODE commands embed the bits of the one frame. -/
theorem equalMessagesEmbedEqualBits : Obligations.EqualMessagesEmbedEqualBits := by
  intro s s' t t' m hm hm' h h' hok hok' k hk
  rw [execEncode_chanBit hm h hok hk, execEncode_chanBit hm' h' hok' hk]

end Sys2Proof.Machine
end

section
/-! PROOFS. The arithmetic of ENCODE: what packing a bit does to a byte, and the two forms of the capacity test
(spec/41_encoder.md R83 to R85). -/

namespace Sys2Proof.Machine

/-! ### Packing one bit -/

/-- Packing a bit leaves bits 7 to 1 alone (R85). -/
theorem packBit_ushiftRight_one (v : Byte) (b : Bool) : packBit v b >>> 1 = v >>> 1 := by
  have hkeep : v >>> 1 &&& (0xFE : Byte) >>> 1 = v >>> 1 := by
    ext i hi
    interval_cases i <;> simp
  have hdrop : (if b then 1 else 0 : Byte) >>> 1 = 0 := by cases b <;> rfl
  rw [packBit, BitVec.ushiftRight_or_distrib, BitVec.ushiftRight_and_distrib, hkeep, hdrop]
  exact BitVec.or_zero

/-- The value of bit 0 of a byte. -/
theorem getLsbD_zero_toNat (v : Byte) : (v.getLsbD 0).toNat = v.toNat % 2 := by
  rw [BitVec.getLsbD, Nat.toNat_testBit, Nat.pow_zero, Nat.div_one]

/-- The value of a packed byte, from its two parts: bits 7 to 1 and bit 0 (R85). -/
theorem packBit_toNat (v : Byte) (b : Bool) : (packBit v b).toNat = v.toNat - v.toNat % 2 + b.toNat := by
  have hupper : (packBit v b).toNat / 2 = v.toNat / 2 := congrArg BitVec.toNat (packBit_ushiftRight_one v b)
  have hbit : b.toNat = (packBit v b).toNat % 2 := by rw [← getLsbD_zero_toNat, packBit_getLsbD_zero]
  omega

/-- Packing the bit a byte carries already changes nothing. -/
theorem packBit_of_getLsbD_zero {v : Byte} {b : Bool} (h : v.getLsbD 0 = b) : packBit v b = v := by
  apply BitVec.eq_of_toNat_eq
  rw [packBit_toNat, ← h, getLsbD_zero_toNat, Nat.sub_add_cancel (Nat.mod_le _ _)]

/-- A packed byte is the byte before, or differs from it by exactly 1 (R90). -/
theorem packBit_eq_or_adjacent (v : Byte) (b : Bool) :
    packBit v b = v ∨ (packBit v b).toNat = v.toNat + 1 ∨ (packBit v b).toNat + 1 = v.toNat := by
  have hb : b.toNat < 2 := Bool.toNat_lt b
  have hv := packBit_toNat v b
  rw [← BitVec.toNat_inj]
  omega

/-- Settles O9: the two halves of the packed byte, and the value they give. -/
theorem packBitReplacesBitZero : Obligations.PackBitReplacesBitZero :=
  fun v b => ⟨packBit_getLsbD_zero v b, packBit_ushiftRight_one v b, packBit_toNat v b⟩

/-! ### Capacity -/

theorem nbits_eq (l : Nat) : nbits l = 8 * (l + 7) := by
  unfold nbits frameLen
  omega

/-- A frame fits when its bytes do: it is whole bytes (R84). -/
theorem nbits_le_capBits_iff (l p : Nat) : nbits l ≤ capBits p ↔ l + 7 ≤ capBytes p := by
  rw [nbits_eq, capBytes]
  omega

/-- The longest message of `p` pixels, when there is one (R83). -/
theorem maxMsg_eq_some_iff (p n : Nat) : maxMsg p = some n ↔ 8 ≤ capBytes p ∧ n = capBytes p - 7 := by
  unfold maxMsg
  split <;> simp [*, eq_comm]

theorem maxMsg_eq_none_iff (p : Nat) : maxMsg p = none ↔ capBytes p < 8 := by
  unfold maxMsg
  split <;> simp <;> omega

/-- Settles O12: all three clauses compare `l + 7` or 8 with `CapBytes(p)`, which is `3 * p / 8`. -/
theorem capacityFormsAgree : Obligations.CapacityFormsAgree := by
  refine ⟨fun l p => ?_, fun l p hl => ?_, fun p => ?_⟩
  · rw [gt_iff_lt, ← not_le, nbits_le_capBits_iff, not_le]
  · rw [nbits_le_capBits_iff]
    simp only [maxMsg_eq_some_iff]
    constructor
    · exact fun h => ⟨capBytes p - 7, ⟨by omega, rfl⟩, by omega⟩
    · rintro ⟨n, ⟨h8, rfl⟩, hn⟩
      omega
  · rw [maxMsg_eq_none_iff, capBytes, capBits]
    omega

end Sys2Proof.Machine
end

section
/-! PROOFS. The step-level ENCODE (spec/41_encoder.md R91): it ends in the state of the atomic command, and the
invariant between its pack steps. -/

namespace Sys2Proof.Machine

@[simp] theorem packStep_k (s : State) : (packStep s).k = s.k + 1 := by rw [packStep_state]

@[simp] theorem packStep_msgLen (s : State) : (packStep s).msgLen = s.msgLen := by rw [packStep_state]

@[simp] theorem packSteps_k (n : Nat) (s : State) : (packSteps n s).k = s.k + n := by rw [packSteps_state]

/-! ### The micro steps of a successful ENCODE -/

/-- In the work phase, as many micro steps as frame bits are left are the pack steps, and the last of them leads to the
completion step. -/
theorem microRun_encodeMicro_work {n : Nat} {s : State} (h : s.k + (n + 1) = nbits s.msgLen) :
    microRun encodeMicro (n + 1) { phase := .work, state := s } =
      { phase := .complete, state := packSteps (n + 1) s } := by
  induction n generalizing s with
  | zero =>
    rw [microRun_succ, encodeMicro_work, if_neg (by omega)]
    rfl
  | succ n ih =>
    have hrest : (packStep s).k + (n + 1) = nbits (packStep s).msgLen := by
      rw [packStep_k, packStep_msgLen]
      omega
    rw [microRun_succ, encodeMicro_work, if_pos (by omega), ih hrest]
    rfl

/-- The check step, the pack steps of the whole frame and the completion step. -/
theorem microRun_encodeMicro_pass {s : State} (h : encodeCheck s = none) :
    microRun encodeMicro (nbits s.msgLen + 2) { phase := .check, state := s } =
      { phase := .done, state := encodeDone (packSteps (nbits s.msgLen) (encodeStart s)) } := by
  obtain ⟨n, hn⟩ : ∃ n, nbits s.msgLen = n + 1 := ⟨nbits s.msgLen - 1, by rw [nbits_eq]; omega⟩
  have hwork : (encodeStart s).k + (n + 1) = nbits (encodeStart s).msgLen := by
    rw [encodeStart_k, encodeStart_msgLen, hn, Nat.zero_add]
  rw [hn, microRun_succ, encodeMicro_check_pass h, microRun_add encodeMicro (n + 1) 1,
    microRun_encodeMicro_work hwork, microRun_one, encodeMicro_complete]

/-- Settles O40: a failed check ends both in one step; after a passed one the work phase is the pack steps, by induction
on the frame bits left. -/
theorem encodeStepsRefineCommand : Obligations.EncodeStepsRefineCommand := by
  intro s t h
  rcases exec_cases h with ⟨e, -, he, rfl⟩ | ⟨-, he, rfl⟩ | ⟨⟨⟩, -⟩ | ⟨⟨⟩, -⟩ | ⟨⟨⟩, -⟩
  · exact encodeMicro_check_error he
  · exact microRun_encodeMicro_pass he

/-! ### Between the pack steps -/

/-- A pack step packs the frame's bit into the byte at the cursor when that byte is written (R85). -/
theorem packStep_read_cursor_of_read {s : State} {m : List Byte} (h : s.MessageIs m) {v : Byte}
    (hv : s.pix.read (chanAddr s.k) = some v) :
    (packStep s).pix.read (chanAddr s.k) = some (packBit v (frameBit m s.k)) := by
  obtain ⟨hlen, hbytes⟩ := h
  rw [packStep_pix, Memory.read_write_same, readByte_of_read (sp := .pix) hv, readFrameBit_of_message hlen hbytes]

/-- After `n` pack steps a written channel of those visited holds its byte with the frame's bit packed into it (R91). -/
theorem packSteps_read_of_read {s : State} {m : List Byte} (h : s.MessageIs m) {n k : Nat} (hlo : s.k ≤ k)
    (hhi : k < s.k + n) {v : Byte} (hv : s.pix.read (chanAddr k) = some v) :
    (packSteps n s).pix.read (chanAddr k) = some (packBit v (frameBit m k)) := by
  induction n with
  | zero => omega
  | succ n ih =>
    rw [packSteps_succ]
    by_cases hk : k = s.k + n
    · have hbefore : (packSteps n s).pix.read (chanAddr (packSteps n s).k) = some v := by
        rw [packSteps_k, ← hk, packSteps_read_other n s _ fun j _ hj => chanAddr_strictMono.injective.ne (by omega), hv]
      have hstep := packStep_read_cursor_of_read (packSteps_messageIs h n) hbefore
      rwa [packSteps_k, ← hk] at hstep
    · rw [packStep_read_chanAddr_other (by rwa [packSteps_k])]
      exact ih (by omega)

/-- Pack steps leave bits 7 to 1 of every written byte alone: visited channels are packed, the rest untouched (R91). -/
theorem packSteps_read_upper {s : State} {m : List Byte} (h : s.MessageIs m) (n : Nat) {a : Nat} {v : Byte}
    (hv : s.pix.read a = some v) : ∃ w, (packSteps n s).pix.read a = some w ∧ w >>> 1 = v >>> 1 := by
  by_cases ha : ∃ k, s.k ≤ k ∧ k < s.k + n ∧ a = chanAddr k
  · obtain ⟨k, hlo, hhi, rfl⟩ := ha
    exact ⟨_, packSteps_read_of_read h hlo hhi hv, packBit_ushiftRight_one v _⟩
  · have hother := packSteps_read_other n s a fun k hlo hhi hk => ha ⟨k, hlo, hhi, hk⟩
    exact ⟨v, hother.trans hv, rfl⟩

/-- Settles O41: the cursor, the visited channels, the upper bits and the other bytes after `n` pack steps. -/
theorem packStepsInvariant : Obligations.PackStepsInvariant := by
  intro s m n hk hm _
  refine ⟨by rw [packSteps_k, hk, Nat.zero_add], fun k hkn => ?_, fun a v => packSteps_read_upper hm n,
    fun a ha => ?_⟩
  · exact packSteps_read_frameBit hm (by omega) (by omega)
  · exact packSteps_read_other n s a fun k _ hkn => ha k (by omega)

end Sys2Proof.Machine
end

section
/-! PROOFS. The ENCODE command as a whole (spec/41_encoder.md R86 to R90): how it ends, the frame it embeds, and what a
second ENCODE of the same message does. -/

namespace Sys2Proof.Machine

/-! ### How ENCODE ends -/

/-- STATUS after ENCODE: the error the check finds, or OK (R80, R87). -/
theorem execEncode_status {s t : State} (h : exec .encode s = .next t) :
    t.status = { op := .encode, code := (encodeCheck s).elim .ok .error } := by
  rcases exec_cases h with ⟨e, -, he, rfl⟩ | ⟨-, he, rfl⟩ | ⟨⟨⟩, -⟩ | ⟨⟨⟩, -⟩ | ⟨⟨⟩, -⟩
  · rw [he]
    rfl
  · rw [he]
    rfl

/-- ENCODE succeeds when its check passes, and only then. -/
theorem execEncode_ok_iff {s t : State} (h : exec .encode s = .next t) :
    t.status.code = .ok ↔ encodeCheck s = none := by
  rw [execEncode_status h]
  cases encodeCheck s <;> simp

/-- A failed ENCODE has not written PIX: the checks come before the packing (R88). -/
theorem execEncode_pix_of_error {s t : State} (h : exec .encode s = .next t) (herr : t.status.code ≠ .ok) :
    t.pix = s.pix := by
  rcases exec_cases h with ⟨e, -, -, rfl⟩ | ⟨-, -, rfl⟩ | ⟨⟨⟩, -⟩ | ⟨⟨⟩, -⟩ | ⟨⟨⟩, -⟩
  · rfl
  · exact absurd rfl herr

/-- Settles O13: an error is found before the packing starts. -/
theorem failedEncodeLeavesPixels : Obligations.FailedEncodeLeavesPixels :=
  fun _ _ => execEncode_pix_of_error

/-- With valid lengths and a message, the capacity check decides (R84, R89). -/
theorem encodeCheck_of_lengthsOk {s : State} (h : s.EncLengthsOk) (hne : s.msgLen ≠ 0) :
    encodeCheck s = if 8 * (s.msgLen + 7) ≤ 3 * (s.pixLen / 4) then none else some .capacityExceeded := by
  obtain ⟨hmod, hpix, hmsg⟩ := h
  rw [encodeCheck_eq, if_neg (by omega), if_neg hne]
  by_cases hfit : 8 * (s.msgLen + 7) ≤ 3 * (s.pixLen / 4)
  · rw [if_neg (Nat.not_lt.2 hfit), if_pos hfit]
  · rw [if_pos (Nat.not_le.1 hfit), if_neg hfit]

/-- Settles O11: the check of a valid ENCODE is the comparison of R89, and it decides the STATUS word. -/
theorem encodeCapacityBoundary : Obligations.EncodeCapacityBoundary := by
  intro s hl hne
  obtain ⟨t, ht⟩ := execEncode_answers s
  have hstatus := execEncode_status ht
  rw [encodeCheck_of_lengthsOk hl hne] at hstatus
  refine ⟨t, ht, ?_⟩
  by_cases hfit : 8 * (s.msgLen + 7) ≤ 3 * (s.pixLen / 4)
  · rw [if_pos hfit] at hstatus
    exact ⟨iff_of_true (hstatus ▸ Status.word_encode_ok) hfit, fun h => absurd hfit h⟩
  · rw [if_neg hfit] at hstatus
    have hpix : t.pix = s.pix := execEncode_pix_of_error ht (by simp [hstatus])
    have hword : t.status.word = 0x13 := hstatus ▸ Status.word_encode_capacity
    exact ⟨iff_of_false (by simp [hword]) hfit, fun _ => ⟨hword, hpix⟩⟩

/-! ### The frame in the pixels -/

/-- A successful ENCODE packs the frame's bit into each written channel of the frame (R85, R86). -/
theorem execEncode_read_of_read {s t : State} {m : List Byte} (hm : s.MessageIs m) (h : exec .encode s = .next t)
    (hok : t.status.code = .ok) {k : Nat} (hk : k < nbits m.length) {v : Byte}
    (hv : s.pix.read (chanAddr k) = some v) : t.pix.read (chanAddr k) = some (packBit v (frameBit m k)) := by
  rcases exec_cases h with ⟨e, -, -, rfl⟩ | ⟨-, -, rfl⟩ | ⟨⟨⟩, -⟩ | ⟨⟨⟩, -⟩ | ⟨⟨⟩, -⟩
  · cases hok
  · have hlen : s.msgLen = m.length := hm.1
    rw [encodeDone_pix, hlen]
    exact packSteps_read_of_read (s := encodeStart s) hm (Nat.zero_le k) (by rwa [encodeStart_k, Nat.zero_add]) hv

/-- ENCODE leaves bits 7 to 1 of every written byte of PIX alone (R86). -/
theorem execEncode_read_upper {s t : State} {m : List Byte} (hm : s.MessageIs m) (h : exec .encode s = .next t)
    {a : Nat} {v : Byte} (hv : s.pix.read a = some v) : ∃ w, t.pix.read a = some w ∧ w >>> 1 = v >>> 1 := by
  rcases exec_cases h with ⟨e, -, -, rfl⟩ | ⟨-, -, rfl⟩ | ⟨⟨⟩, -⟩ | ⟨⟨⟩, -⟩ | ⟨⟨⟩, -⟩
  · exact ⟨v, hv, rfl⟩
  · rw [encodeDone_pix]
    exact packSteps_read_upper (s := encodeStart s) hm _ hv

/-- ENCODE leaves the parameters, the lengths, MSG and OUT alone (R86). -/
theorem execEncode_operands {s t : State} (h : exec .encode s = .next t) :
    t.cfg = s.cfg ∧ t.msg = s.msg ∧ t.msgLen = s.msgLen ∧ t.pixLen = s.pixLen ∧ t.out = s.out ∧
      t.outLen = s.outLen := by
  rw [execEncode_frame h]
  exact ⟨rfl, rfl, rfl, rfl, rfl, rfl⟩

/-- ENCODE leaves the message operand alone (R86). -/
theorem execEncode_messageIs {s t : State} {m : List Byte} (hm : s.MessageIs m) (h : exec .encode s = .next t) :
    t.MessageIs m := by
  rw [execEncode_frame h]
  exact hm

/-- Every index of PIX is a channel of the frame or no such channel. -/
theorem frameChannel_or_other (n a : Nat) : (∃ k, k < n ∧ a = chanAddr k) ∨ ∀ k, k < n → a ≠ chanAddr k := by
  by_cases h : ∃ k, k < n ∧ a = chanAddr k
  · exact .inl h
  · exact .inr fun k hk ha => h ⟨k, hk, ha⟩

/-- Where the frame ends: on B, R or G by the number of its bytes, since eight bits are two modulo three (R86). -/
theorem frame_last_channel (l : Nat) :
    ((nbits l - 1) % 3 = 2 ↔ (l + 7) % 3 = 0) ∧ ((nbits l - 1) % 3 = 0 ↔ (l + 7) % 3 = 2) ∧
      ((nbits l - 1) % 3 = 1 ↔ (l + 7) % 3 = 1) := by
  rw [nbits_eq]
  omega

/-- Settles O10: the bits come from packing them, and the other points from which bytes a frame's channels can be. -/
theorem encodeEmbedsFrame : Obligations.EncodeEmbedsFrame := by
  intro s m hl hm hne hfit
  obtain ⟨t, ht⟩ := execEncode_answers s
  have hlen : s.msgLen = m.length := hm.1
  have hpass : encodeCheck s = none := by
    rw [encodeCheck_of_lengthsOk hl (by simpa [hlen] using hne), if_pos (by rwa [hlen])]
  have hstatus : t.status.word = 0x10 := by
    rw [execEncode_status ht, hpass]
    exact Status.word_encode_ok
  have hother : ∀ a, (∀ k, k < nbits m.length → a ≠ chanAddr k) → t.pix.read a = s.pix.read a := fun a ha =>
    execEncode_read_other ht (hlen ▸ ha)
  obtain ⟨-, hmsg, hmsgLen, hpixLen, hout, houtLen⟩ := execEncode_operands ht
  refine ⟨t, ht, hstatus, fun k hk => execEncode_read_frameBit hm ht ((execEncode_ok_iff ht).2 hpass) hk,
    fun a v hv => execEncode_read_upper hm ht hv, fun p => hother _ fun k _ ha => ?_,
    fun a ha => hother a fun k hk => ?_, fun a ha => hother a fun k hk => ?_, hmsg, hmsgLen, hpixLen, hout,
    houtLen, frame_last_channel m.length⟩
  · exact chanAddr_mod_four_ne_three k (by omega)
  · exact (Nat.lt_of_le_of_lt (chanAddr_strictMono.monotone (Nat.le_sub_one_of_lt hk)) ha).ne'
  · have hchan : k < capBits (pixelCount s.pixLen) := by
      obtain ⟨-, -, hcap⟩ := (encodeCheck_eq_none_iff s).1 hpass
      exact Nat.lt_of_lt_of_le hk (hlen ▸ hcap)
    exact (Nat.lt_of_lt_of_le (chanAddr_lt hchan) ha).ne'

/-! ### A second ENCODE -/

/-- Successful ENCODE commands of one message on equal buffers leave equal buffers (R90). -/
theorem execEncode_read_congr {s t s' t' : State} {m : List Byte} (hm : s.MessageIs m) (hm' : s'.MessageIs m)
    (hw : ChannelsWritten s.pix (nbits m.length)) (h : exec .encode s = .next t) (h' : exec .encode s' = .next t')
    (hok : t.status.code = .ok) (hok' : t'.status.code = .ok) (hpix : ∀ a, s'.pix.read a = s.pix.read a) (a : Nat) :
    t'.pix.read a = t.pix.read a := by
  rcases frameChannel_or_other (nbits m.length) a with ⟨k, hk, rfl⟩ | ha
  · obtain ⟨v, hv⟩ := hw k hk
    rw [execEncode_read_of_read hm h hok hk hv, execEncode_read_of_read hm' h' hok' hk ((hpix _).trans hv)]
  · obtain ⟨hlen, -⟩ := hm
    obtain ⟨hlen', -⟩ := hm'
    rw [execEncode_read_other h (hlen ▸ ha), execEncode_read_other h' (hlen' ▸ ha), hpix]

/-- ENCODE succeeds again on its own result, whose registers are those before (R90). -/
theorem execEncode_again_ok {s t u : State} (h : exec .encode s = .next t) (hok : t.status.code = .ok)
    (hu : exec .encode t = .next u) : u.status.code = .ok := by
  obtain ⟨hcfg, -, hmsgLen, hpixLen, -⟩ := execEncode_operands h
  have hcheck : encodeCheck t = encodeCheck s := encodeCheck_congr hcfg hpixLen hmsgLen
  rw [execEncode_ok_iff hu, hcheck]
  exact (execEncode_ok_iff h).1 hok

/-- ENCODE on its own result packs bits that are there already (R90). -/
theorem execEncode_again_read {s t u : State} {m : List Byte} (hm : s.MessageIs m) (h : exec .encode s = .next t)
    (hok : t.status.code = .ok) (hu : exec .encode t = .next u) (a : Nat) : u.pix.read a = t.pix.read a := by
  have hmt := execEncode_messageIs hm h
  rcases frameChannel_or_other (nbits m.length) a with ⟨k, hk, rfl⟩ | ha
  · obtain ⟨v, hv, hbit⟩ := execEncode_read_frameBit hm h hok hk
    rw [execEncode_read_of_read hmt hu (execEncode_again_ok h hok hu) hk hv, packBit_of_getLsbD_zero hbit, hv]
  · obtain ⟨hlen, -⟩ := hmt
    exact execEncode_read_other hu (hlen ▸ ha)

/-- A byte that a successful ENCODE changes is a channel of the frame and changes by exactly 1 (R90). -/
theorem execEncode_read_eq_or_adjacent {s t : State} {m : List Byte} (hm : s.MessageIs m)
    (hw : ChannelsWritten s.pix (nbits m.length)) (h : exec .encode s = .next t) (hok : t.status.code = .ok)
    (a : Nat) :
    t.pix.read a = s.pix.read a ∨
      (∃ k, k < nbits m.length ∧ a = chanAddr k) ∧
        ∃ v w : Byte, s.pix.read a = some v ∧ t.pix.read a = some w ∧
          (w.toNat = v.toNat + 1 ∨ w.toNat + 1 = v.toNat) := by
  rcases frameChannel_or_other (nbits m.length) a with ⟨k, hk, rfl⟩ | ha
  · obtain ⟨v, hv⟩ := hw k hk
    have ht := execEncode_read_of_read hm h hok hk hv
    rcases packBit_eq_or_adjacent v (frameBit m k) with heq | hadj
    · exact .inl (by rw [ht, heq, hv])
    · exact .inr ⟨⟨k, hk, rfl⟩, v, _, hv, ht, hadj⟩
  · obtain ⟨hlen, -⟩ := hm
    exact .inl (execEncode_read_other h (hlen ▸ ha))

/-- Settles O15: each byte after ENCODE is the byte before with the frame's bit packed, or the byte before. -/
theorem encodeDeterministicIdempotent : Obligations.EncodeDeterministicIdempotent := by
  intro s t m hm hw h hok
  obtain ⟨u, hu⟩ := execEncode_answers t
  exact ⟨fun _ _ h' _ hm' hok' hpix => execEncode_read_congr hm hm' hw h h' hok hok' hpix,
    ⟨u, hu, execEncode_again_ok h hok hu, execEncode_again_read hm h hok hu⟩,
    execEncode_read_eq_or_adjacent hm hw h hok⟩

end Sys2Proof.Machine
end

section
/-! PROOFS. How a DECODE ends (spec/42_decoder.md R100 to R109): the three ends, said once, and from them what a failed
and what a successful one leave, and that every step keeps the announced text in place. -/

namespace Sys2Proof.Machine

/-! ### The three ends of DECODE -/

/-- What a host finds after DECODE: an invalid PIX_LEN and a failed marker check leave no text and OUT as it was; a
passed one leaves the candidate bytes after the Marker (R101, R105 to R107). -/
theorem execDecode_ends {s t : State} (h : exec .decode s = .next t) :
    (decValid s = false ∧ t.status = { op := .decode, code := .error .invalidInput } ∧ t.outLen = 0 ∧ t.out = s.out) ∨
      (decValid s = true ∧ markerOk (unpack (decodeStart s)).1 = false ∧
        t.status = { op := .decode, code := .error .noHiddenMessage } ∧ t.outLen = 0 ∧ t.out = s.out) ∨
      (decValid s = true ∧ markerOk (unpack (decodeStart s)).1 = true ∧ t.status = { op := .decode, code := .ok } ∧
        t.outLen = (unpack (decodeStart s)).1.length - 6 ∧
        ∀ i, i < t.outLen → t.out.read i = (unpack (decodeStart s)).1[6 + i]?) := by
  have hout : (unpack (decodeStart s)).2.out = s.out := by rw [unpack_state, decodeStart_out]
  rcases exec_cases h with ⟨_, ⟨⟩, -⟩ | ⟨⟨⟩, -⟩ | ⟨-, hv, rfl⟩ | ⟨-, hv, hm, rfl⟩ | ⟨-, hv, hm, -, rfl⟩
  · exact .inl ⟨hv, rfl, rfl, rfl⟩
  · exact .inr (.inl ⟨hv, hm, rfl, rfl, hout⟩)
  · refine .inr (.inr ⟨hv, hm, rfl, List.length_drop, fun i hi => ?_⟩)
    rw [decodeDone_outLen] at hi
    rw [decodeDone_out, writeText_read, if_pos (by omega), Nat.sub_zero, List.getElem?_drop]

/-- A DECODE that ends with an error leaves no text and OUT as it was, and its error is one of the two (R107). -/
theorem execDecode_of_error {s t : State} (h : exec .decode s = .next t) (herr : t.status.code ≠ .ok) :
    t.outLen = 0 ∧ t.out = s.out ∧ t.status.op = .decode ∧
      (t.status.code = .error .invalidInput ∨ t.status.code = .error .noHiddenMessage) := by
  rcases execDecode_ends h with ⟨-, hst, hlen, hout⟩ | ⟨-, -, hst, hlen, hout⟩ | ⟨-, -, hst, -⟩
  · exact ⟨hlen, hout, by rw [hst], .inl (by rw [hst])⟩
  · exact ⟨hlen, hout, by rw [hst], .inr (by rw [hst])⟩
  · exact absurd (by rw [hst]) herr

/-- STATUS.OP after DECODE (R12). -/
theorem execDecode_status_op {s t : State} (h : exec .decode s = .next t) : t.status.op = .decode := by
  rcases execDecode_ends h with ⟨-, hst, -⟩ | ⟨-, -, hst, -⟩ | ⟨-, -, hst, -⟩ <;> rw [hst]

/-- Every byte of the text of a DECODE is written in OUT and is not zero: no candidate byte is (R103, R106, R108). -/
theorem execDecode_text_written {s t : State} (h : exec .decode s = .next t) {i : Nat} (hi : i < t.outLen) :
    ∃ v, t.out.read i = some v ∧ v ≠ 0 := by
  rcases execDecode_ends h with ⟨-, -, hlen, -⟩ | ⟨-, -, -, hlen, -⟩ | ⟨-, -, -, hlen, hread⟩
  · omega
  · omega
  · have hlt : 6 + i < (unpack (decodeStart s)).1.length := by omega
    exact ⟨_, (hread i hi).trans (List.getElem?_eq_getElem hlt),
      unpackSteps_ne_zero _ [] _ (by simp) _ (List.getElem_mem hlt)⟩

/-- A text that DECODE delivers has at most `MaxText(PIX_LEN)` bytes (R108). -/
theorem execDecode_outLen_le {s t : State} (h : exec .decode s = .next t) (hok : t.status.code = .ok) :
    t.outLen ≤ maxText s.pixLen := by
  rcases execDecode_ends h with ⟨-, hst, -⟩ | ⟨-, -, hst, -⟩ | ⟨-, -, -, hlen, -⟩
  · simp [hst] at hok
  · simp [hst] at hok
  · exact hlen ▸ Nat.sub_le_sub_right (unpack_length_le s) 6

/-- OUT holds the longest text of a buffer whose DECODE succeeds: its length is valid (R5, R108). -/
theorem maxText_le_outMax_of_ok {s t : State} (h : exec .decode s = .next t) (hok : t.status.code = .ok)
    (hw : s.cfg.Wf) : maxText s.pixLen ≤ s.cfg.outMax := by
  obtain ⟨-, -, -, -, -, hmax⟩ := hw
  have hv : decValid s = true := by
    rcases execDecode_ends h with ⟨-, hst, -⟩ | ⟨hv, -⟩ | ⟨hv, -⟩
    · simp [hst] at hok
    · exact hv
    · exact hv
  obtain ⟨-, hlen⟩ := (decValid_iff s).1 hv
  exact Nat.le_trans (maxText_le_maxText hlen) hmax

/-! ### The statements on one DECODE -/

/-- Settles O22: PIX, MSG and the two lengths are among what DECODE leaves unchanged. -/
theorem decodeNeverWritesItsInput : Obligations.DecodeNeverWritesItsInput := by
  intro s t h
  rw [execDecode_frame h]
  exact ⟨rfl, rfl, rfl, rfl⟩

/-- Settles O23: two of the three ends of DECODE are errors. -/
theorem failedDecodeReturnsNoText : Obligations.FailedDecodeReturnsNoText :=
  fun _ _ => execDecode_of_error

/-- Settles O25: the candidate string has at most an eighth of the channels and no zero byte, and R5 sizes OUT. -/
theorem decodedTextIsBounded : Obligations.DecodedTextIsBounded :=
  fun _ _ h hok => ⟨execDecode_outLen_le h hok, fun _ => execDecode_text_written h, maxText_le_outMax_of_ok h hok⟩

/-! ### Every step keeps the announced text -/

/-- The text invariant reads STATUS, OUT_LEN and OUT only. -/
theorem textInv_congr {s t : State} (h : s.TextInv) (hst : t.status = s.status) (hlen : t.outLen = s.outLen)
    (hout : t.out = s.out) : t.TextInv where
  text_written := by rw [hlen, hout]; exact h.text_written
  failed_empty := by rw [hst, hlen]; exact h.failed_empty
  fresh_empty := by rw [hst, hlen]; exact h.fresh_empty

/-- A command other than DECODE that leaves OUT_LEN and OUT alone keeps the text invariant. -/
theorem textInv_of_other_op {s t : State} (h : s.TextInv) (hop : t.status.op = .encode ∨ t.status.op = .illegal)
    (hlen : t.outLen = s.outLen) (hout : t.out = s.out) : t.TextInv where
  text_written := by rw [hlen, hout]; exact h.text_written
  failed_empty hdec := by rcases hop with hop | hop <;> cases hop.symm.trans hdec
  fresh_empty hnone := by rcases hop with hop | hop <;> cases hop.symm.trans hnone

theorem textInv_exec {s t : State} (h : s.TextInv) {i : Instr} (ht : exec i s = .next t) : t.TextInv := by
  cases i with
  | encode =>
    obtain ⟨-, -, -, -, hout, hlen⟩ := execEncode_operands ht
    exact textInv_of_other_op h (.inl (by rw [execEncode_status ht])) hlen hout
  | decode =>
    exact {
      text_written := fun i hi => execDecode_text_written ht hi
      failed_empty := fun _ herr => (execDecode_of_error ht herr).1
      fresh_empty := fun hnone => by cases (execDecode_status_op ht).symm.trans hnone }

theorem textInv_hostAccess {s t : State} (h : s.TextInv) {a : HostAccess} (ht : hostAccess a s = .next t) :
    t.TextInv := by
  rcases hostAccess_cases ht with ⟨_, n, -, -, rfl⟩ | ⟨_, -, rfl⟩ | ⟨_, -, -, rfl⟩ | ⟨_, -, -, rfl⟩ |
    ⟨sp, _, v, -, -, ⟨hsp, rfl⟩ | ⟨-, rfl⟩⟩ | ⟨sp, b, -, -, rfl⟩ | ⟨-, rfl⟩ | ⟨_, _, -, -, rfl⟩ | ⟨_, _, -, -, hx⟩
  · exact textInv_congr h rfl rfl rfl
  · exact h
  · exact textInv_congr h rfl rfl rfl
  · exact textInv_congr h rfl rfl rfl
  · cases sp with
    | pix => exact textInv_congr h rfl rfl rfl
    | msg => exact textInv_congr h rfl rfl rfl
    | out => exact absurd rfl hsp
  · exact h
  · exact textInv_congr h (by simp) (by simp) (by simp)
  · exact textInv_congr (textInv_resetWith s.cfg) rfl rfl rfl
  · exact textInv_of_other_op h (.inr rfl) rfl rfl
  · exact textInv_exec h hx

/-- Settles O56: a step is idle or one access of the host, and each access keeps the text in place. -/
theorem stepKeepsDeliveredText : Obligations.StepKeepsDeliveredText := by
  intro s t h ht
  rcases step_cases s with ⟨-, hs⟩ | ⟨a, rest, -, hs⟩
  · cases hs.symm.trans ht
    exact h
  · exact textInv_hostAccess (s := { s with script := rest }) (textInv_congr h rfl rfl rfl) (hs.symm.trans ht)

end Sys2Proof.Machine
end

section
/-! PROOFS. The marker check on CLEN and MOK (spec/42_decoder.md R105; spec/10_state.md R22, R23), and the step-level
DECODE, which has no other record of the candidate string (spec/42_decoder.md R113). -/

namespace Sys2Proof.Machine

/-! ### One unpack read -/

@[simp] theorem unpackRead_k (s : State) : (unpackRead s).k = s.k + 1 := by rw [unpackRead_state]

@[simp] theorem unpackRead_pixLen (s : State) : (unpackRead s).pixLen = s.pixLen := by rw [unpackRead_state]

@[simp] theorem unpackRead_pix (s : State) : (unpackRead s).pix = s.pix := by rw [unpackRead_state]

@[simp] theorem unpackRead_out (s : State) : (unpackRead s).out = s.out := by rw [unpackRead_state]

@[simp] theorem unpackRead_clen (s : State) : (unpackRead s).clen = s.clen := by rw [unpackRead_state]

@[simp] theorem unpackRead_mok (s : State) : (unpackRead s).mok = s.mok := by rw [unpackRead_state]

/-! ### One iteration of the unpacking -/

/-- A read that completes no group only goes on (R102). -/
theorem unpackSteps_partial {s : State} (hk : (s.k + 1) % 8 ≠ 0) (n : Nat) (cs : List Byte) :
    unpackSteps (n + 1) cs s = unpackSteps n cs (unpackRead s) := by
  rw [unpackSteps, if_neg (by rwa [unpackRead_k])]

/-- A completed group that is zero ends the unpacking (R103). -/
theorem unpackSteps_zero {s : State} (hk : (s.k + 1) % 8 = 0) (hz : (unpackRead s).acc = 0) (n : Nat)
    (cs : List Byte) : unpackSteps (n + 1) cs s = (cs, unpackRead s) := by
  rw [unpackSteps, if_pos (by rwa [unpackRead_k]), if_pos hz]

/-- A completed group that is not zero is counted into the candidate string (R102). -/
theorem unpackSteps_keep {s : State} (hk : (s.k + 1) % 8 = 0) (hz : (unpackRead s).acc ≠ 0) (n : Nat)
    (cs : List Byte) :
    unpackSteps (n + 1) cs s = unpackSteps n (cs ++ [(unpackRead s).acc]) (keepByte (unpackRead s)) := by
  rw [unpackSteps, if_pos (by rwa [unpackRead_k]), if_neg hz]

/-- What every read and every kept byte preserve, the whole unpacking preserves. -/
theorem unpackSteps_preserves {P : List Byte → State → Prop} (hread : ∀ cs s, P cs s → P cs (unpackRead s))
    (hkeep : ∀ cs s, P cs s → P (cs ++ [s.acc]) (keepByte s)) (n : Nat) {cs : List Byte} {s : State} (h : P cs s) :
    P (unpackSteps n cs s).1 (unpackSteps n cs s).2 := by
  induction n generalizing cs s with
  | zero => exact h
  | succ n ih =>
    by_cases hk : (s.k + 1) % 8 = 0
    · by_cases hz : (unpackRead s).acc = 0
      · rw [unpackSteps_zero hk hz]
        exact hread cs s h
      · rw [unpackSteps_keep hk hz]
        exact ih (hkeep cs _ (hread cs s h))
    · rw [unpackSteps_partial hk]
      exact ih (hread cs s h)

/-! ### CLEN and MOK stand for the candidate string -/

/-- The bytes `cs` match the Marker as far as they reach (R23). -/
def markerSoFar (cs : List Byte) : Bool := decide (cs.take 6 = marker.take cs.length)

/-- The marker check: enough bytes, and a match as far as they reach (R105). -/
theorem markerOk_eq (cs : List Byte) : markerOk cs = (decide (6 ≤ cs.length) && markerSoFar cs) := by
  by_cases h : 6 ≤ cs.length
  · rw [markerOk, markerSoFar, List.take_of_length_le (l := marker) h]
  · simp [markerOk, h]

/-- One more byte matches when it stands after the Marker or is the Marker's (R23). -/
theorem markerSoFar_concat (cs : List Byte) (v : Byte) :
    markerSoFar (cs ++ [v]) = (markerSoFar cs && matchesMarker cs.length v) := by
  unfold markerSoFar matchesMarker
  rw [List.length_append, List.length_singleton]
  by_cases h : 6 ≤ cs.length
  · rw [List.take_append_of_le_length h, List.take_of_length_le (l := marker) h,
      List.take_of_length_le (l := marker) (Nat.le_succ_of_le h)]
    simp [h]
  · have hlt : cs.length < marker.length := Nat.not_le.1 h
    have hlast : cs ++ [v] = marker.take (cs.length + 1) ↔ cs = marker.take cs.length ∧ marker[cs.length] = v := by
      rw [← List.take_append_getElem hlt, List.append_singleton_inj, eq_comm (a := v)]
    rw [List.take_of_length_le (l := cs ++ [v]) (by simp; omega), List.take_of_length_le (l := cs) (by omega),
      List.getD_eq_getElem _ _ hlt]
    simp [h, hlast]

/-- CLEN and MOK say of the candidate string `cs` what R22 and R23 say. -/
structure Tracks (cs : List Byte) (s : State) : Prop where
  clen : s.clen = cs.length
  mok : s.mok = markerSoFar cs

theorem tracks_decodeStart (s : State) : Tracks [] (decodeStart s) := ⟨rfl, rfl⟩

theorem tracks_unpackRead {cs : List Byte} {s : State} (h : Tracks cs s) : Tracks cs (unpackRead s) :=
  ⟨(unpackRead_clen s).trans h.clen, (unpackRead_mok s).trans h.mok⟩

theorem tracks_keepByte {cs : List Byte} {s : State} (h : Tracks cs s) : Tracks (cs ++ [s.acc]) (keepByte s) where
  clen := by rw [keepByte_clen, h.clen, List.length_append, List.length_singleton]
  mok := by rw [keepByte_mok, h.clen, h.mok, markerSoFar_concat]

/-- The marker check on CLEN and MOK is the one on the candidate string they track (R105). -/
theorem markerOk_iff_of_tracks {cs : List Byte} {s : State} (h : Tracks cs s) :
    markerOk cs = true ↔ 6 ≤ s.clen ∧ s.mok = true := by
  rw [markerOk_eq, h.clen, h.mok, Bool.and_eq_true, decide_eq_true_iff]

/-- After the unpacking CLEN and MOK track the candidate string. -/
theorem tracks_unpack (s : State) : Tracks (unpack (decodeStart s)).1 (unpack (decodeStart s)).2 :=
  unpackSteps_preserves (P := Tracks) (fun _ _ => tracks_unpackRead) (fun _ _ => tracks_keepByte) _
    (tracks_decodeStart s)

/-- Settles O29: CLEN and MOK track the candidate string, and the marker check on it decides between two ends. -/
theorem markerCheckIsClenAndMok : Obligations.MarkerCheckIsClenAndMok := by
  intro s r
  have htracks : Tracks r.1 r.2 := tracks_unpack s
  refine ⟨htracks.clen, markerOk_iff_of_tracks htracks, fun t h hl => ?_⟩
  rw [← markerOk_iff_of_tracks htracks]
  rcases execDecode_ends h with ⟨hv, -⟩ | ⟨-, hm, hst, -⟩ | ⟨-, hm, hst, -⟩
  · rw [(decValid_iff s).2 hl] at hv
    cases hv
  · simp [r, hm, hst]
  · simp [r, hm, hst]

end Sys2Proof.Machine
end

section
/-! PROOFS. The step-level DECODE (spec/42_decoder.md R113): OUT as it is written on the way, the work steps beside the
iterations of the unpacking, and the two step-level machines run to their ends. -/

namespace Sys2Proof.Machine

/-! ### OUT on the way -/

/-- One more byte of a sequence stored. -/
theorem Memory.writeFrom_concat (m : Memory) (a : Nat) (vs : List Byte) (v : Byte) :
    m.writeFrom a (vs ++ [v]) = (m.writeFrom a vs).write (a + vs.length) v := by
  induction vs generalizing m a with
  | nil => rfl
  | cons w vs ih => rw [List.cons_append, writeFrom, ih, writeFrom, List.length_cons, Nat.add_right_comm, Nat.add_assoc]

/-- Storing a text is storing its bytes in OUT. -/
theorem writeText_eq_writeFrom (a : Nat) (vs : List Byte) (s : State) :
    writeText a vs s = { s with out := s.out.writeFrom a vs } := by
  induction vs generalizing a s with
  | nil => rfl
  | cons v vs ih =>
    rw [writeText, ih]
    rfl

/-- The memory OUT, `o` before the command, when the step-level DECODE has completed the bytes `cs`: those after a
matched Marker stand in it (R113). -/
def outSoFar (cs : List Byte) (o : Memory) : Memory := if markerOk cs = true then o.writeFrom 0 (cs.drop 6) else o

/-- The state of the step-level DECODE when the unpacking of the atomic one has the bytes `cs` and the state `s`. -/
def writtenThrough (cs : List Byte) (s : State) : State := { s with out := outSoFar cs s.out }

theorem writtenThrough_of_marker {cs : List Byte} (h : markerOk cs = true) (s : State) :
    writtenThrough cs s = writeText 0 (cs.drop 6) s := by
  rw [writtenThrough, outSoFar, if_pos h, writeText_eq_writeFrom]

theorem writtenThrough_of_not_marker {cs : List Byte} (h : markerOk cs = false) (s : State) :
    writtenThrough cs s = s := by
  rw [writtenThrough, outSoFar, if_neg (by simp [h])]

@[simp] theorem writtenThrough_k (cs : List Byte) (s : State) : (writtenThrough cs s).k = s.k := rfl

@[simp] theorem writtenThrough_pixLen (cs : List Byte) (s : State) : (writtenThrough cs s).pixLen = s.pixLen := rfl

@[simp] theorem writtenThrough_acc (cs : List Byte) (s : State) : (writtenThrough cs s).acc = s.acc := rfl

@[simp] theorem writtenThrough_mok (cs : List Byte) (s : State) : (writtenThrough cs s).mok = s.mok := rfl

theorem tracks_writtenThrough {cs : List Byte} {s : State} (h : Tracks cs s) : Tracks cs (writtenThrough cs s) :=
  ⟨h.clen, h.mok⟩

/-- An unpack read neither reads nor writes OUT. -/
theorem unpackRead_writtenThrough (cs : List Byte) (s : State) :
    unpackRead (writtenThrough cs s) = writtenThrough cs (unpackRead s) := by
  rw [writtenThrough, writtenThrough, unpackRead_out]
  simp only [unpackRead, readByte, State.mem]
  split <;> rfl

/-- A byte that completes after a matched Marker is the next of the text; the sixth of the Marker itself, and a byte
after a mismatch, are not stored (R113). -/
theorem outSoFar_concat (cs : List Byte) (v : Byte) (o : Memory) :
    outSoFar (cs ++ [v]) o =
      if markerOk cs = true then (outSoFar cs o).write (cs.length - 6) v else outSoFar cs o := by
  have hnext : markerOk (cs ++ [v]) =
      (decide (6 ≤ cs.length + 1) && (markerSoFar cs && matchesMarker cs.length v)) := by
    rw [markerOk_eq, markerSoFar_concat, List.length_append, List.length_singleton]
  unfold outSoFar
  by_cases h6 : 6 ≤ cs.length
  · have hsame : markerOk (cs ++ [v]) = markerOk cs := by
      rw [hnext, markerOk_eq]
      simp [matchesMarker, h6, Nat.le_succ_of_le h6]
    rw [hsame]
    split
    · rw [List.drop_append_of_le_length h6, Memory.writeFrom_concat, Nat.zero_add, List.length_drop]
    · rfl
  · have hno : ¬ markerOk cs = true := by simp [markerOk_eq, h6]
    have hnil : (cs ++ [v]).drop 6 = [] := List.drop_of_length_le (by simp; omega)
    rw [if_neg hno, if_neg hno, hnil]
    exact ite_self o

/-- The write of R113 before a byte is kept leaves OUT as the longer candidate string wants it. -/
theorem keepByte_writeThrough {cs : List Byte} {s : State} (h : Tracks cs s) :
    keepByte (writeThrough (writtenThrough cs s)) = writtenThrough (cs ++ [s.acc]) (keepByte s) := by
  have hiff := markerOk_iff_of_tracks (tracks_writtenThrough h)
  have hright : writtenThrough (cs ++ [s.acc]) (keepByte s) =
      { keepByte s with out := outSoFar (cs ++ [s.acc]) s.out } := rfl
  rw [writeThrough, hright, outSoFar_concat]
  by_cases hm : markerOk cs = true
  · rw [if_pos (hiff.1 hm), if_pos hm, ← h.clen]
    rfl
  · rw [if_neg (mt hiff.2 hm), if_neg hm]
    rfl

/-! ### One work step -/

/-- A work step of the step-level DECODE is an iteration of the unpacking: both go on, or a zero group ends both. -/
theorem decodeMicro_work_cases {cs : List Byte} {s : State} (h : Tracks cs s)
    (hk : s.k < capBits (pixelCount s.pixLen)) (n : Nat) :
    (∃ cs' s', Tracks cs' s' ∧ s'.k = s.k + 1 ∧ s'.pixLen = s.pixLen ∧
        unpackSteps (n + 1) cs s = unpackSteps n cs' s' ∧
        decodeMicro { phase := .work, state := writtenThrough cs s } =
          { phase := .work, state := writtenThrough cs' s' }) ∨
      (unpackSteps (n + 1) cs s = (cs, unpackRead s) ∧
        decodeMicro { phase := .work, state := writtenThrough cs s } =
          { phase := .complete, state := writtenThrough cs (unpackRead s) }) := by
  have hread := tracks_unpackRead h
  rw [decodeMicro_work (s := writtenThrough cs s) hk]
  simp only [unpackMicro, unpackRead_writtenThrough, writtenThrough_k, writtenThrough_acc, unpackRead_k]
  by_cases hgroup : (s.k + 1) % 8 = 0
  · by_cases hz : (unpackRead s).acc = 0
    · exact .inr ⟨unpackSteps_zero hgroup hz n cs, by rw [if_pos hgroup, if_pos hz]⟩
    · refine .inl ⟨_, _, tracks_keepByte hread, unpackRead_k s, unpackRead_pixLen s,
        unpackSteps_keep hgroup hz n cs, ?_⟩
      rw [if_pos hgroup, if_neg hz, keepByte_writeThrough hread]
  · exact .inl ⟨cs, _, hread, unpackRead_k s, unpackRead_pixLen s, unpackSteps_partial hgroup n cs,
      by rw [if_neg hgroup]⟩

/-! ### The completion step -/

/-- The completion step is the end of the atomic DECODE (R105 to R107, R113). -/
theorem decodeComplete_writtenThrough {cs : List Byte} {s : State} (h : Tracks cs s) :
    decodeComplete (writtenThrough cs s) =
      if markerOk cs = true then decodeDone (cs.drop 6).length (writeText 0 (cs.drop 6) s)
      else raise .decode .noHiddenMessage s := by
  have hiff := markerOk_iff_of_tracks (tracks_writtenThrough h)
  have hclen : (writtenThrough cs s).clen = cs.length := h.clen
  rw [decodeComplete]
  by_cases hm : markerOk cs = true
  · rw [if_pos (hiff.1 hm), if_pos hm, hclen, List.length_drop, writtenThrough_of_marker hm]
  · rw [if_neg (mt hiff.2 hm), if_neg hm, writtenThrough_of_not_marker (by simpa using hm)]

/-- A DECODE of an invalid PIX_LEN ends before any byte is read (R101). -/
theorem eq_raise_of_exec {s t : State} (h : exec .decode s = .next t) (hv : decValid s = false) :
    t = raise .decode .invalidInput (decodeStart s) := by
  rcases exec_cases h with ⟨_, ⟨⟩, -⟩ | ⟨⟨⟩, -⟩ | ⟨-, -, rfl⟩ | ⟨-, hv', -⟩ | ⟨-, hv', -⟩
  · rfl
  · cases hv'.symm.trans hv
  · cases hv'.symm.trans hv

/-- A DECODE of a valid PIX_LEN that answers a next state ends as the completion step does. -/
theorem eq_decodeComplete_of_exec {s t : State} (h : exec .decode s = .next t) (hv : decValid s = true) :
    t = decodeComplete (writtenThrough (unpack (decodeStart s)).1 (unpack (decodeStart s)).2) := by
  rw [decodeComplete_writtenThrough (tracks_unpack s)]
  rcases exec_cases h with ⟨_, ⟨⟩, -⟩ | ⟨⟨⟩, -⟩ | ⟨-, hv', -⟩ | ⟨-, -, hm, rfl⟩ | ⟨-, -, hm, -, rfl⟩
  · cases hv.symm.trans hv'
  · rw [if_neg (by simp [hm])]
  · rw [if_pos hm]

/-- A check step, a work phase and a completion step in one run. -/
theorem microRun_of_phases {f : Micro → Micro} {start work complete : Micro} {j : Nat} (hcheck : f start = work)
    (hwork : microRun f j work = complete) : microRun f (j + 2) start = f complete := by
  rw [microRun_succ, hcheck, microRun_add f j 1, hwork, microRun_one]

/-- Before the work phase nothing is written, and CLEN and MOK track the empty candidate string. -/
theorem decodeMicro_check_writtenThrough {s : State} (hv : decValid s = true) :
    decodeMicro { phase := .check, state := s } = { phase := .work, state := writtenThrough [] (decodeStart s) } := by
  rw [decodeMicro_check_pass hv, writtenThrough_of_not_marker (by decide)]

/-! ### The step-level DECODE -/

/-- With `n` channels left the work phase takes at most `n + 1` steps and ends where the unpacking does. -/
theorem microRun_decodeMicro_work (n : Nat) {cs : List Byte} {s : State} (h : Tracks cs s)
    (hk : s.k + n = capBits (pixelCount s.pixLen)) :
    ∃ j, j ≤ n + 1 ∧ microRun decodeMicro j { phase := .work, state := writtenThrough cs s } =
      { phase := .complete, state := writtenThrough (unpackSteps n cs s).1 (unpackSteps n cs s).2 } := by
  induction n generalizing cs s with
  | zero => exact ⟨1, Nat.le_refl 1, decodeMicro_exhausted (s := writtenThrough cs s) (Nat.le_of_eq hk.symm)⟩
  | succ n ih =>
    rcases decodeMicro_work_cases h (by omega) n with ⟨cs', s', h', hk', hp', hsteps, hmicro⟩ | ⟨hsteps, hmicro⟩
    · obtain ⟨j, hj, hrun⟩ := ih h' (by rw [hk', hp']; omega)
      exact ⟨j + 1, Nat.succ_le_succ hj, by rw [microRun_succ, hmicro, hrun, hsteps]⟩
    · exact ⟨1, by omega, by rw [microRun_one, hmicro, hsteps]⟩

/-- Settles O42: OUT on the way is a function of the candidate string, so each work step is an iteration of the
unpacking, and the completion step finds OUT written already. -/
theorem decodeStepsRefineCommand : Obligations.DecodeStepsRefineCommand := by
  intro s t h
  cases hv : decValid s with
  | false => exact ⟨1, by omega, eq_raise_of_exec h hv ▸ decodeMicro_check_error hv⟩
  | true =>
    obtain ⟨j, hj, hrun⟩ := microRun_decodeMicro_work (capBits (pixelCount s.pixLen)) (tracks_decodeStart s)
      (Nat.zero_add _)
    refine ⟨j + 2, by simp only [capBits, pixelCount] at hj; omega, ?_⟩
    rw [microRun_of_phases (decodeMicro_check_writtenThrough hv) hrun, decodeMicro_complete,
      eq_decodeComplete_of_exec h hv]
    rfl

/-! ### The step-level DECODE that stops early -/

/-- Outside the work phase, and while MOK is 1, the early-stopping DECODE is the other one. -/
theorem decodeMicroEarly_eq {m : Micro} (h : m.phase = .work → m.state.mok = true) :
    decodeMicroEarly m = decodeMicro m := by
  rw [decodeMicroEarly, if_neg fun ⟨hwork, hm⟩ => by simp [h hwork] at hm]

theorem decodeMicroEarly_stop {s : State} (h : s.mok = false) :
    decodeMicroEarly { phase := .work, state := s } = { phase := .complete, state := s } := by
  rw [decodeMicroEarly, if_pos ⟨rfl, h⟩]

/-- With MOK = 0 the completion step raises NoHiddenMessage, and nothing has been stored in OUT (R113). -/
theorem decodeComplete_of_mismatch {cs : List Byte} {s : State} (h : Tracks cs s) (hm : s.mok = false) :
    decodeComplete (writtenThrough cs s) = raise .decode .noHiddenMessage s := by
  rw [decodeComplete_writtenThrough h, if_neg (by simp [markerOk_iff_of_tracks h, hm])]

/-- No later byte mends a mismatch (R23). -/
theorem unpackSteps_of_mismatch (n : Nat) {cs : List Byte} {s : State} (h : Tracks cs s) (hm : s.mok = false) :
    Tracks (unpackSteps n cs s).1 (unpackSteps n cs s).2 ∧ (unpackSteps n cs s).2.mok = false :=
  unpackSteps_preserves (P := fun cs s => Tracks cs s ∧ s.mok = false)
    (fun _ _ ⟨h, hm⟩ => ⟨tracks_unpackRead h, (unpackRead_mok _).trans hm⟩)
    (fun _ _ ⟨h, hm⟩ => ⟨tracks_keepByte h, by simp [hm]⟩) n ⟨h, hm⟩

/-- After a mismatch the end of the full unpacking is, for a host, the one that stopping at once has (R113). -/
theorem decodeComplete_visible_of_mismatch (n : Nat) {cs : List Byte} {s : State} (h : Tracks cs s)
    (hm : s.mok = false) :
    (decodeComplete (writtenThrough (unpackSteps n cs s).1 (unpackSteps n cs s).2)).visible =
      (decodeComplete (writtenThrough cs s)).visible := by
  obtain ⟨hafter, hmafter⟩ := unpackSteps_of_mismatch n h hm
  rw [decodeComplete_of_mismatch h hm, decodeComplete_of_mismatch hafter hmafter, unpackSteps_state]
  rfl

/-- The work phase that may stop early ends in a state whose completion shows a host what the full unpacking does. -/
theorem microRun_decodeMicroEarly_work (n : Nat) {cs : List Byte} {s : State} (h : Tracks cs s)
    (hk : s.k + n = capBits (pixelCount s.pixLen)) :
    ∃ j u, microRun decodeMicroEarly j { phase := .work, state := writtenThrough cs s } =
        { phase := .complete, state := u } ∧
      (decodeComplete u).visible =
        (decodeComplete (writtenThrough (unpackSteps n cs s).1 (unpackSteps n cs s).2)).visible := by
  induction n generalizing cs s with
  | zero =>
    refine ⟨1, writtenThrough cs s, ?_, rfl⟩
    cases hm : s.mok with
    | false => exact decodeMicroEarly_stop (s := writtenThrough cs s) hm
    | true =>
      rw [microRun_one, decodeMicroEarly_eq fun _ => hm]
      exact decodeMicro_exhausted (s := writtenThrough cs s) (Nat.le_of_eq hk.symm)
  | succ n ih =>
    cases hm : s.mok with
    | false =>
      exact ⟨1, _, decodeMicroEarly_stop (s := writtenThrough cs s) hm,
        (decodeComplete_visible_of_mismatch (n + 1) h hm).symm⟩
    | true =>
      have hsame : decodeMicroEarly { phase := .work, state := writtenThrough cs s } = _ :=
        decodeMicroEarly_eq fun _ => hm
      rcases decodeMicro_work_cases h (by omega) n with ⟨cs', s', h', hk', hp', hsteps, hmicro⟩ | ⟨hsteps, hmicro⟩
      · obtain ⟨j, u, hrun, hu⟩ := ih h' (by rw [hk', hp']; omega)
        exact ⟨j + 1, u, by rw [microRun_succ, hsame, hmicro, hrun], by rw [hu, hsteps]⟩
      · exact ⟨1, _, hsame.trans hmicro, by rw [hsteps]⟩

/-- Settles O43: stopping at MOK = 0 skips only reads that cannot change what a host sees, by induction on the channels
left. -/
theorem decodeEarlyStopIsInvisible : Obligations.DecodeEarlyStopIsInvisible := by
  intro s t h
  have hcheck : decodeMicroEarly { phase := .check, state := s } = decodeMicro { phase := .check, state := s } :=
    decodeMicroEarly_eq (by simp)
  cases hv : decValid s with
  | false => exact ⟨1, t, eq_raise_of_exec h hv ▸ hcheck.trans (decodeMicro_check_error hv), rfl⟩
  | true =>
    obtain ⟨j, u, hrun, hu⟩ := microRun_decodeMicroEarly_work (capBits (pixelCount s.pixLen)) (tracks_decodeStart s)
      (Nat.zero_add _)
    refine ⟨j + 2, decodeComplete u, ?_, by rw [hu, eq_decodeComplete_of_exec h hv]; rfl⟩
    rw [microRun_of_phases (hcheck.trans (decodeMicro_check_writtenThrough hv)) hrun, decodeMicroEarly_eq (by simp)]
    rfl

end Sys2Proof.Machine
end

section
/-! PROOFS. The text a pixel buffer carries, in closed form (spec/42_decoder.md R102 to R107): the unpacking of whole
groups of channels, the candidate string, the Marker at its start, and DECODE on written channels. -/

namespace Sys2Proof.Machine

/-! ### The byte in a group of channels -/

/-- The number that the bits of the channels `k` to `k + n - 1` spell, most-significant first. -/
def bitsValue (p : Memory) (k : Nat) : Nat → Nat
  | 0 => 0
  | n + 1 => Nat.bit (chanBit p (k + n)) (bitsValue p k n)

/-- The number a group spells is the one its eight bits shift together (R102). -/
theorem groupValue_eq (p : Memory) (j : Nat) : groupValue p j = bitsValue p (8 * j) 8 := by
  simp only [groupValue, bitsValue, Nat.bit_val, List.range, List.range.loop, List.map, List.sum_cons, List.sum_nil]
  omega

/-- Bit `d` of `n` spelled bits stands `n - 1 - d` places from the right. -/
theorem bitsValue_testBit (p : Memory) (k : Nat) {n d : Nat} (h : d < n) :
    (bitsValue p k n).testBit (n - 1 - d) = chanBit p (k + d) := by
  induction n with
  | zero => omega
  | succ n ih =>
    rw [bitsValue]
    by_cases hd : d = n
    · rw [hd, show n + 1 - 1 - n = 0 by omega, Nat.testBit_bit_zero]
    · rw [show n + 1 - 1 - d = (n - 1 - d) + 1 by omega, Nat.testBit_bit_succ, ih (by omega)]

/-- Bit `i` of a group's byte is the bit of its `i`-th channel (R71, R102). -/
theorem groupByte_msbBit (p : Memory) (j : Nat) {i : Nat} (h : i < 8) :
    msbBit (groupByte p j) i = chanBit p (8 * j + i) := by
  rw [msbBit, groupByte, groupValue_eq, BitVec.getLsbD_ofNat, ← bitsValue_testBit p (8 * j) h]
  simp [show 7 - i < 8 by omega]

/-- A byte is its eight bits. -/
theorem eq_of_msbBit_eq {v w : Byte} (h : ∀ i, i < 8 → msbBit v i = msbBit w i) : v = w := by
  refine BitVec.eq_of_getLsbD_eq fun i hi => ?_
  have hbit := h (7 - i) (by omega)
  rwa [msbBit, msbBit, show 7 - (7 - i) = i by omega] at hbit

/-- The byte of a group is `v` when its channels carry the bits of `v` (R102). -/
theorem groupByte_eq_iff (p : Memory) (j : Nat) (v : Byte) :
    groupByte p j = v ↔ ∀ i, i < 8 → chanBit p (8 * j + i) = msbBit v i := by
  constructor
  · rintro rfl i hi
    exact (groupByte_msbBit p j hi).symm
  · exact fun h => eq_of_msbBit_eq fun i hi => (groupByte_msbBit p j hi).trans (h i hi)

/-! ### Unpacking one group -/

/-- Shifting a byte's bit 0 into ACC appends it to the number ACC spells (R21, R102). -/
theorem shiftBit_ofNat (x : Nat) (v : Byte) :
    shiftBit (BitVec.ofNat 8 x) v = BitVec.ofNat 8 (Nat.bit (v.getLsbD 0) x) := by
  refine BitVec.eq_of_getLsbD_eq fun i hi => ?_
  simp only [shiftBit, BitVec.getLsbD_or, BitVec.getLsbD_shiftLeft, BitVec.getLsbD_and, BitVec.getLsbD_ofNat]
  cases i with
  | zero => simp [-Nat.testBit_zero, Nat.testBit_bit_zero]
  | succ i => simp [Nat.testBit_bit_succ, hi, Nat.lt_of_succ_lt hi]

/-- Reads of written channels spell their bits into a cleared ACC and draw no free value (R102). -/
theorem iterate_unpackRead_of_written {s : State} (hacc : s.acc = 0) (i : Nat)
    (hw : ∀ d, d < i → ∃ v, s.pix.read (chanAddr (s.k + d)) = some v) :
    unpackRead^[i] s = { s with acc := BitVec.ofNat 8 (bitsValue s.pix s.k i), k := s.k + i } := by
  induction i with
  | zero =>
    obtain ⟨⟩ := s
    cases hacc
    rfl
  | succ i ih =>
    obtain ⟨v, hv⟩ := hw i (Nat.lt_succ_self i)
    rw [Function.iterate_succ_apply', ih fun d hd => hw d (Nat.lt_succ_of_lt hd), unpackRead_of_read (v := v) hv,
      shiftBit_ofNat, bitsValue, chanBit_of_read hv]
    rfl

/-- Reads that complete no group only go on. -/
theorem unpackSteps_add_of_partial (i n : Nat) (cs : List Byte) {s : State} (h : s.k % 8 + i < 8) :
    unpackSteps (n + i) cs s = unpackSteps n cs (unpackRead^[i] s) := by
  induction i generalizing s with
  | zero => rfl
  | succ i ih =>
    rw [Function.iterate_succ_apply, ← Nat.add_assoc, unpackSteps_partial (by omega),
      ih (by rw [unpackRead_k]; omega)]

/-- The state after the channels of group `j` are read: its byte in ACC, the cursor at the next group. -/
def groupRead (j : Nat) (s : State) : State := { s with acc := groupByte s.pix j, k := 8 * (j + 1) }

/-- Unpacking a written group: a zero byte ends it, any other is counted into the candidate string (R102, R103). -/
theorem unpackSteps_group {s : State} {j : Nat} (hk : s.k = 8 * j) (hacc : s.acc = 0)
    (hw : ∀ d, d < 8 → ∃ v, s.pix.read (chanAddr (8 * j + d)) = some v) (n : Nat) (cs : List Byte) :
    unpackSteps (n + 8) cs s =
      if groupByte s.pix j = 0 then (cs, groupRead j s)
      else unpackSteps n (cs ++ [groupByte s.pix j]) (keepByte (groupRead j s)) := by
  have hread : unpackRead (unpackRead^[7] s) = groupRead j s := by
    rw [← Function.iterate_succ_apply' unpackRead, iterate_unpackRead_of_written hacc 8 (by rwa [hk]), hk,
      ← groupValue_eq]
    rfl
  have hk7 : ((unpackRead^[7] s).k + 1) % 8 = 0 := by
    have h8 : (groupRead j s).k = 8 * (j + 1) := rfl
    rw [← unpackRead_k, hread, h8]
    omega
  rw [show n + 8 = n + 1 + 7 by omega, unpackSteps_add_of_partial 7 (n + 1) cs (by omega)]
  split
  case isTrue hz => rw [unpackSteps_zero hk7 (by rwa [hread]), hread]
  case isFalse hz => rw [unpackSteps_keep hk7 (by rwa [hread]), hread]; rfl

/-! ### The candidate string -/

/-- The bytes of `g` groups from group `j` on, up to the first zero one. -/
def candidateFrom (p : Memory) (j g : Nat) : List Byte :=
  ((List.range' j g).map (groupByte p)).takeWhile (fun v => decide (v ≠ 0))

theorem candidate_eq_candidateFrom (p : Memory) (n : Nat) : candidate p n = candidateFrom p 0 (capBytes n) := by
  rw [candidate, List.range_eq_range', candidateFrom]

theorem candidateFrom_succ (p : Memory) (j g : Nat) :
    candidateFrom p j (g + 1) = if groupByte p j = 0 then [] else groupByte p j :: candidateFrom p (j + 1) g := by
  rw [candidateFrom, List.range'_succ, List.map_cons, List.takeWhile_cons]
  split <;> simp_all [candidateFrom]

/-- The unpacking of `g` whole groups and fewer than eight channels more collects the candidate bytes, when the channels
up to the end of the first zero group are written (R102 to R104). -/
theorem unpackSteps_eq_candidateFrom (g : Nat) {r : Nat} (hr : r < 8) {s : State} {j : Nat} (hk : s.k = 8 * j)
    (hacc : s.acc = 0)
    (hw : ∀ k, 8 * j ≤ k → k < 8 * (j + g) → k < 8 * (j + (candidateFrom s.pix j g).length + 1) →
      ∃ v, s.pix.read (chanAddr k) = some v) (cs : List Byte) :
    (unpackSteps (8 * g + r) cs s).1 = cs ++ candidateFrom s.pix j g := by
  induction g generalizing s j cs with
  | zero =>
    rw [Nat.mul_zero, unpackSteps_add_of_partial r 0 cs (by omega)]
    exact (List.append_nil cs).symm
  | succ g ih =>
    have hgroup : ∀ d, d < 8 → ∃ v, s.pix.read (chanAddr (8 * j + d)) = some v := fun d hd =>
      hw _ (by omega) (by omega) (by omega)
    rw [show 8 * (g + 1) + r = 8 * g + r + 8 by omega, unpackSteps_group hk hacc hgroup]
    rw [candidateFrom_succ] at hw ⊢
    by_cases hz : groupByte s.pix j = 0
    · rw [if_pos hz, if_pos hz, List.append_nil]
    · rw [if_neg hz] at hw ⊢
      rw [if_neg hz, ih (s := keepByte (groupRead j s)) (j := j + 1) rfl rfl, List.append_assoc]
      · rfl
      · intro k hlo hhi hlen
        rw [List.length_cons] at hw
        exact hw k (by omega) (by omega) (by simp only [groupRead, keepByte_pix] at hlen; omega)

/-- The candidate string of DECODE is the one of the buffer (R102 to R104). -/
theorem unpack_eq_candidate {s : State}
    (hw : ∀ k, k < 8 * capBytes (pixelCount s.pixLen) →
      k < 8 * ((candidate s.pix (pixelCount s.pixLen)).length + 1) → ∃ v, s.pix.read (chanAddr k) = some v) :
    (unpack (decodeStart s)).1 = candidate s.pix (pixelCount s.pixLen) := by
  rw [candidate_eq_candidateFrom] at hw ⊢
  have hsplit : capBits (pixelCount s.pixLen) =
      8 * capBytes (pixelCount s.pixLen) + capBits (pixelCount s.pixLen) % 8 := (Nat.div_add_mod _ 8).symm
  rw [unpack, decodeStart_pixLen, hsplit, unpackSteps_eq_candidateFrom (j := 0) _ (Nat.mod_lt _ (by omega)) rfl rfl]
  · rfl
  · exact fun k _ hhi hlen => hw k (by omega) (by rw [decodeStart_pix] at hlen; omega)

/-- Where the candidate string ends: before the first zero group, or at the end of the buffer (R103, R104). -/
theorem candidate_eq_map {p : Memory} {n z : Nat} (hz : z ≤ capBytes n) (hne : ∀ j, j < z → groupByte p j ≠ 0)
    (hend : z = capBytes n ∨ groupByte p z = 0) : candidate p n = (List.range z).map (groupByte p) := by
  obtain ⟨d, hd⟩ : ∃ d, capBytes n = z + d := Nat.exists_eq_add_of_le hz
  have hrest : candidateFrom p z d = [] := by
    cases d with
    | zero => rfl
    | succ d => rw [candidateFrom_succ, if_pos (hend.resolve_left (by omega))]
  have hbefore : ∀ v ∈ (List.range' 0 z).map (groupByte p), decide (v ≠ 0) = true := by
    simpa [List.mem_range'_1] using hne
  rw [candidate_eq_candidateFrom, candidateFrom, hd, ← List.range'_append_1, List.map_append,
    List.takeWhile_append_of_pos hbefore, Nat.zero_add, ← candidateFrom, hrest, List.append_nil, List.range_eq_range']

/-- Some group is the first zero one, or none is. -/
theorem exists_candidate_end (p : Memory) (n : Nat) :
    ∃ z, z ≤ capBytes n ∧ (∀ j, j < z → groupByte p j ≠ 0) ∧ (z = capBytes n ∨ groupByte p z = 0) := by
  induction capBytes n with
  | zero => exact ⟨0, by omega, by omega, .inl rfl⟩
  | succ N ih =>
    obtain ⟨z, hz, hne, rfl | hzero⟩ := ih
    · by_cases hlast : groupByte p z = 0
      · exact ⟨z, by omega, hne, .inr hlast⟩
      · refine ⟨z + 1, by omega, fun j hj => ?_, .inl rfl⟩
        rcases Nat.lt_succ_iff_lt_or_eq.1 hj with hlt | rfl
        · exact hne j hlt
        · exact hlast
    · exact ⟨z, by omega, hne, .inr hzero⟩

end Sys2Proof.Machine
end

section
/-! PROOFS. DECODE on written channels (spec/42_decoder.md R102 to R107, R110, R111, R115): its result in terms of the
groups of the buffer, for buffers that carry a frame and for the others. -/

namespace Sys2Proof.Machine

/-! ### The Marker at the start of a buffer -/

theorem marker_getElem?_ne_zero : ∀ j, j < 6 → some (0 : Byte) ≠ marker[j]? := by decide

/-- The marker check passes on a buffer's candidate string when its first six groups are the Marker: no Marker byte is
zero (R105). -/
theorem markerOk_candidate_iff (p : Memory) (n : Nat) :
    markerOk (candidate p n) = true ↔ 6 ≤ capBytes n ∧ ∀ j, j < 6 → some (groupByte p j) = marker[j]? := by
  obtain ⟨z, hz, hne, hend⟩ := exists_candidate_end p n
  have hmap : ∀ {j}, j < z → (candidate p n)[j]? = some (groupByte p j) := fun {j} hj => by
    rw [candidate_eq_map hz hne hend, List.getElem?_map, List.getElem?_range hj, Option.map_some]
  have hlen : (candidate p n).length = z := by
    rw [candidate_eq_map hz hne hend, List.length_map, List.length_range]
  rw [markerOk, hlen, Bool.and_eq_true, decide_eq_true_iff, decide_eq_true_iff]
  constructor
  · rintro ⟨h6, htake⟩
    refine ⟨Nat.le_trans h6 hz, fun j hj => ?_⟩
    rw [← hmap (by omega), ← htake, List.getElem?_take_of_lt hj]
  · rintro ⟨h6, hmarker⟩
    have hz6 : 6 ≤ z := by
      by_contra hlt
      exact marker_getElem?_ne_zero z (by omega) (hend.resolve_left (by omega) ▸ hmarker z (by omega))
    refine ⟨hz6, List.ext_getElem? fun j => ?_⟩
    by_cases hj : j < 6
    · rw [List.getElem?_take_of_lt hj, hmap (by omega), hmarker j hj]
    · rw [List.getElem?_take_eq_none (by omega), List.getElem?_eq_none (Nat.not_lt.1 hj)]

/-! ### DECODE by its candidate string -/

/-- The two ends of a DECODE of a valid PIX_LEN with candidate string `cs` (R105 to R107). -/
theorem execDecode_of_candidate {s : State} {cs : List Byte} (hw : s.cfg.Wf) (hl : s.DecLengthsOk)
    (hcs : (unpack (decodeStart s)).1 = cs) :
    ∃ t, exec .decode s = .next t ∧
      ((markerOk cs = true ∧ t.status.word = 0x20 ∧ t.outLen = cs.length - 6 ∧
          ∀ i, i < t.outLen → t.out.read i = cs[6 + i]?) ∨
        (markerOk cs = false ∧ t.status.word = 0x24 ∧ t.outLen = 0 ∧ t.out = s.out)) := by
  obtain ⟨t, ht⟩ := exec_answers hw .decode
  refine ⟨t, ht, ?_⟩
  rw [← hcs]
  rcases execDecode_ends ht with ⟨hv, -⟩ | ⟨-, hm, hst, hlen, hout⟩ | ⟨-, hm, hst, hlen, hread⟩
  · cases hv.symm.trans ((decValid_iff s).2 hl)
  · exact .inr ⟨hm, hst ▸ Status.word_decode_none, hlen, hout⟩
  · exact .inl ⟨hm, hst ▸ Status.word_decode_ok, hlen, hread⟩

/-- A DECODE whose candidate string starts with the Marker delivers the bytes after it (R106). -/
theorem execDecode_of_markerOk {s : State} {cs : List Byte} (hw : s.cfg.Wf) (hl : s.DecLengthsOk)
    (hcs : (unpack (decodeStart s)).1 = cs) (hm : markerOk cs = true) :
    ∃ t, exec .decode s = .next t ∧ t.status.word = 0x20 ∧ t.outLen = cs.length - 6 ∧
      ∀ i, i < t.outLen → t.out.read i = cs[6 + i]? := by
  obtain ⟨t, ht, ⟨-, h⟩ | ⟨hm', -⟩⟩ := execDecode_of_candidate hw hl hcs
  · exact ⟨t, ht, h⟩
  · cases hm.symm.trans hm'

/-- A DECODE whose candidate string does not start with the Marker ends with NoHiddenMessage (R105). -/
theorem execDecode_of_not_markerOk {s : State} {cs : List Byte} (hw : s.cfg.Wf) (hl : s.DecLengthsOk)
    (hcs : (unpack (decodeStart s)).1 = cs) (hm : ¬ markerOk cs = true) :
    ∃ t, exec .decode s = .next t ∧ t.status.word = 0x24 := by
  obtain ⟨t, ht, ⟨hm', -⟩ | ⟨-, hst, -⟩⟩ := execDecode_of_candidate hw hl hcs
  · exact absurd hm' hm
  · exact ⟨t, ht, hst⟩

/-- On written channels the candidate string of DECODE is the buffer's (R102 to R104). -/
theorem unpack_eq_candidate_of_written {s : State} (hw : ChannelsWritten s.pix (capBits (pixelCount s.pixLen))) :
    (unpack (decodeStart s)).1 = candidate s.pix (pixelCount s.pixLen) :=
  unpack_eq_candidate fun k hk _ => hw k (by rw [capBytes] at hk; omega)

/-- Settles O20: the unpacking collects the candidate string, and DECODE has two ends on a valid PIX_LEN. -/
theorem decodeDeliversCandidate : Obligations.DecodeDeliversCandidate := by
  intro s hw hl hchan text
  have hiff : markerOk text = true ↔ 6 ≤ text.length ∧ text.take 6 = marker := by simp [markerOk]
  obtain ⟨t, ht, ⟨hm, hst, hlen, hread⟩ | ⟨hm, hst, hlen, hout⟩⟩ :=
    execDecode_of_candidate hw hl (unpack_eq_candidate_of_written hchan)
  · refine ⟨t, ht, ?_⟩
    rw [if_pos (hiff.1 hm)]
    exact ⟨hst, hlen, hread, fun a => execDecode_read_above ht⟩
  · refine ⟨t, ht, ?_⟩
    rw [if_neg (mt hiff.2 (by simp [text, hm]))]
    exact ⟨hst, hlen, hout⟩

/-! ### Buffers that decode with success -/

/-- The first six groups are the Marker when the first 48 channels carry its bits (R75, R111). -/
theorem groups_eq_marker_iff (p : Memory) :
    (∀ j, j < 6 → some (groupByte p j) = marker[j]?) ↔ ∀ k, k < 48 → some (chanBit p k) = (frameBits [])[k]? := by
  have hbits : ∀ k, k < 48 → (frameBits [])[k]? = marker[k / 8]?.map fun v => msbBit v (k % 8) := fun k hk => by
    rw [frameBits, flatMap_byteBits_getElem?, frame_getElem?_marker [] (by omega)]
  constructor
  · intro h k hk
    rw [hbits k hk, ← h (k / 8) (by omega), Option.map_some, groupByte_msbBit p _ (by omega), Nat.div_add_mod]
  · intro h j hj
    rw [List.getElem?_eq_getElem (show j < marker.length from hj), Option.some_inj, groupByte_eq_iff]
    intro i hi
    have hk := (h (8 * j + i) (by omega)).trans (hbits _ (by omega))
    rw [show (8 * j + i) / 8 = j by omega, show (8 * j + i) % 8 = i by omega,
      List.getElem?_eq_getElem (show j < marker.length from hj), Option.map_some, Option.some_inj] at hk
    exact hk

/-- Settles O21: of a valid PIX_LEN the marker check on the candidate string decides, and it asks for six groups, which
is 16 pixels, with the Marker's bits. -/
theorem decodeSucceedsIffMarkerBits : Obligations.DecodeSucceedsIffMarkerBits := by
  intro s hw hchan
  have h16 : 6 ≤ capBytes (pixelCount s.pixLen) ↔ 16 ≤ pixelCount s.pixLen := by
    simp only [capBytes, capBits]
    omega
  have hiff := markerOk_candidate_iff s.pix (pixelCount s.pixLen)
  rw [h16, groups_eq_marker_iff] at hiff
  by_cases hl : s.DecLengthsOk
  · obtain ⟨t, ht, ⟨hm, hst, -⟩ | ⟨hm, hst, -⟩⟩ :=
      execDecode_of_candidate hw hl (unpack_eq_candidate_of_written hchan)
    · obtain ⟨hmod, hmax⟩ := hl
      exact ⟨t, ht, iff_of_true hst ⟨hmod, hmax, hiff.1 hm⟩⟩
    · exact ⟨t, ht, iff_of_false (by simp [hst]) fun ⟨_, _, h⟩ => by simp [hiff.2 h] at hm⟩
  · obtain ⟨t, ht⟩ := exec_answers hw .decode
    refine ⟨t, ht, iff_of_false ?_ fun ⟨hmod, hmax, _⟩ => hl ⟨hmod, hmax⟩⟩
    have hv : decValid s = false := by simpa using mt (decValid_iff s).1 hl
    have hst : t.status.word = 0x21 := eq_raise_of_exec ht hv ▸ Status.word_decode_invalid
    simp [hst]

/-! ### Buffers that carry a frame -/

/-- When the first channels carry the bits of a frame, the first groups are its bytes (R72, R102). -/
theorem groupByte_of_frameBits {p : Memory} {m : List Byte}
    (h : ∀ k, k < nbits m.length → chanBit p k = frameBit m k) {j : Nat} (hj : j < m.length + 7) :
    some (groupByte p j) = (frame m)[j]? := by
  rw [List.getElem?_eq_getElem (by simpa using hj), Option.some_inj, groupByte_eq_iff]
  intro i hi
  rw [h _ (by rw [nbits_eq]; omega), frameBit, show (8 * j + i) / 8 = j by omega, show (8 * j + i) % 8 = i by omega,
    List.getD_eq_getElem _ _ (by simpa using hj)]

/-- The candidate string of a buffer that carries a frame: the frame up to its first zero byte (R75, R103). -/
theorem candidate_of_frameBits {p : Memory} {n : Nat} {m : List Byte} (hfit : nbits m.length ≤ capBits n)
    (h : ∀ k, k < nbits m.length → chanBit p k = frameBit m k) :
    candidate p n = (frame m).take (6 + m.findIdx (fun v => v == 0)) := by
  have hle := List.findIdx_le_length (p := fun v : Byte => v == 0) (xs := m)
  have hcap := (nbits_le_capBits_iff m.length n).1 hfit
  obtain ⟨z, hz⟩ : ∃ z, z = (frame m).findIdx (fun v => v == 0) := ⟨_, rfl⟩
  have hzlt : z < (frame m).length := by
    rw [hz, frame_findIdx_zero, frame_length]
    omega
  rw [← frame_findIdx_zero, ← hz]
  have hbyte : ∀ {j}, (hj : j < (frame m).length) → groupByte p j = (frame m)[j] := fun {j} hj =>
    Option.some_inj.1 ((groupByte_of_frameBits h (by simpa using hj)).trans (List.getElem?_eq_getElem hj))
  have hzero : groupByte p z = 0 := by
    subst hz
    rw [hbyte hzlt]
    exact beq_iff_eq.1 (List.findIdx_getElem (w := hzlt))
  have hne : ∀ j, j < z → groupByte p j ≠ 0 := fun j hj => by
    rw [hbyte (Nat.lt_trans hj hzlt)]
    exact beq_eq_false_iff_ne.1 (List.not_of_lt_findIdx (hz ▸ hj))
  rw [frame_length] at hzlt
  rw [candidate_eq_map (by omega) hne (.inr hzero)]
  refine List.ext_getElem? fun j => ?_
  by_cases hj : j < z
  · rw [List.getElem?_map, List.getElem?_range hj, List.getElem?_take_of_lt hj, Option.map_some,
      groupByte_of_frameBits h (by omega)]
  · rw [List.getElem?_eq_none (by simpa using hj), List.getElem?_take_eq_none (Nat.not_lt.1 hj)]

/-- DECODE of a buffer that carries the frame of `m`, whatever else the state holds, delivers the bytes of `m` before its
first zero byte; the channels after the frame are not read (R110, R115). -/
theorem execDecode_of_frameBits {u : State} {m : List Byte} (hw : u.cfg.Wf) (hl : u.DecLengthsOk)
    (hfit : nbits m.length ≤ capBits (pixelCount u.pixLen)) (hchan : ChannelsWritten u.pix (nbits m.length))
    (h : ∀ k, k < nbits m.length → chanBit u.pix k = frameBit m k) :
    ∃ w, exec .decode u = .next w ∧ w.status.word = 0x20 ∧ w.outLen = m.findIdx (fun v => v == 0) ∧
      ∀ i, i < w.outLen → w.out.read i = m[i]? := by
  have hle := List.findIdx_le_length (p := fun v : Byte => v == 0) (xs := m)
  have hcap := (nbits_le_capBits_iff _ _).1 hfit
  have hcand := candidate_of_frameBits hfit h
  have hlen : (candidate u.pix (pixelCount u.pixLen)).length = 6 + m.findIdx (fun v => v == 0) := by
    rw [hcand, List.length_take_of_le (by rw [frame_length]; omega)]
  have hunpack := unpack_eq_candidate (s := u) fun k _ hk => hchan k (by rw [nbits_eq]; omega)
  have hm : markerOk (candidate u.pix (pixelCount u.pixLen)) = true := by
    refine (markerOk_candidate_iff _ _).2 ⟨by omega, fun j hj => ?_⟩
    rw [groupByte_of_frameBits h (by omega), frame_getElem?_marker m hj]
  obtain ⟨w, hw, hst, hwlen, hread⟩ := execDecode_of_markerOk hw hl hunpack hm
  rw [hlen, Nat.add_sub_cancel_left] at hwlen
  refine ⟨w, hw, hst, hwlen, fun i hi => ?_⟩
  rw [hread i hi, hcand, List.getElem?_take_of_lt (by omega), frame_getElem?_message m (by omega) (by omega),
    Nat.add_sub_cancel_left]

/-- Settles O26: the buffer carries the frame of `m` still, and `m` has no zero byte. -/
theorem encodeThenDecodeReturnsMessage : Obligations.EncodeThenDecodeReturnsMessage := by
  intro s m hw hl hm hne hnz hfit
  obtain ⟨t, ht, hst, hbits, -⟩ := encodeEmbedsFrame s m hl hm hne hfit
  refine ⟨t, ht, hst, fun u hcfg hul hufit hchan hsame => ?_⟩
  have hfindIdx : m.findIdx (fun v => v == 0) = m.length := List.findIdx_eq_length_of_false (by simpa using hnz)
  obtain ⟨hcfg', -⟩ := execEncode_operands ht
  have hframe : ∀ k, k < nbits m.length → chanBit u.pix k = frameBit m k := fun k hk => by
    obtain ⟨v, hv, hbit⟩ := hbits k hk
    rw [hsame k hk, chanBit_of_read hv, hbit]
  obtain ⟨w, hw, hwst, hlen, hread⟩ :=
    execDecode_of_frameBits (by rwa [hcfg, hcfg']) hul (by rwa [nbits_eq]) hchan hframe
  rw [hlen, hfindIdx] at hread
  exact ⟨w, hw, hwst, hlen.trans hfindIdx, hread⟩

/-- Settles O27: the result of ENCODE carries the frame of `m`, and DECODE stops at the first zero byte of it. -/
theorem zeroByteEndsDecodedText : Obligations.ZeroByteEndsDecodedText := by
  intro s m hw hl hm hzero hfit
  obtain ⟨t, ht, hst, hbits, -⟩ := encodeEmbedsFrame s m hl hm (List.ne_nil_of_mem hzero) hfit
  obtain ⟨hcfg, -, -, hpixLen, -⟩ := execEncode_operands ht
  obtain ⟨hmod, hmax, -⟩ := hl
  have htl : t.DecLengthsOk := ⟨hpixLen ▸ hmod, hpixLen ▸ hcfg ▸ hmax⟩
  have hframe : ∀ k, k < nbits m.length → chanBit t.pix k = frameBit m k := fun k hk => by
    obtain ⟨v, hv, hbit⟩ := hbits k hk
    rw [chanBit_of_read hv, hbit]
  obtain ⟨w, hw, hwst, hlen, hread⟩ :=
    execDecode_of_frameBits (hcfg ▸ hw) htl (by rwa [nbits_eq, hpixLen]) (fun k hk => (hbits k hk).imp fun _ h => h.1)
      hframe
  exact ⟨t, w, ht, hst, hw, hwst, hlen, hread⟩

/-! ### Buffers that ENCODE would not produce -/

/-- Settles O28: each row names the end of the candidate string and whether it starts with the Marker. -/
theorem decodeOfBuffersEncodeNeverWrites : Obligations.DecodeOfBuffersEncodeNeverWrites := by
  intro s hw hl hchan n g
  have hunpack := unpack_eq_candidate_of_written hchan
  have hmarker := markerOk_candidate_iff s.pix (pixelCount s.pixLen)
  refine ⟨fun hm h7 hz => ?_, fun hm h6 hne => ?_, fun z hz6 hzn hne hend => ?_, fun h6 hne hdiff => ?_⟩
  · have hnonzero : ∀ j, j < 6 → groupByte s.pix j ≠ 0 := fun j hj h0 => by
      exact marker_getElem?_ne_zero j hj (h0 ▸ hm j hj)
    have hcand := candidate_eq_map (n := pixelCount s.pixLen) (Nat.le_of_succ_le h7) hnonzero (.inr hz)
    obtain ⟨t, ht, hst, hlen, -⟩ := execDecode_of_markerOk hw hl hunpack (hmarker.2 ⟨by omega, hm⟩)
    exact ⟨t, ht, hst, by rw [hlen, hcand]; rfl⟩
  · have hcand := candidate_eq_map (Nat.le_refl _) hne (.inl rfl)
    obtain ⟨t, ht, hst, hlen, hread⟩ := execDecode_of_markerOk hw hl hunpack (hmarker.2 ⟨h6, hm⟩)
    rw [hcand, List.length_map, List.length_range] at hlen
    refine ⟨t, ht, hst, hlen, fun i hi => ?_⟩
    rw [hread i (hlen ▸ hi), hcand, List.getElem?_map, List.getElem?_range (by omega), Option.map_some]
  · refine execDecode_of_not_markerOk hw hl hunpack fun hm => ?_
    rw [candidate_eq_map hzn hne hend, markerOk_eq, List.length_map, List.length_range] at hm
    simp [Nat.not_le.2 hz6] at hm
  · refine execDecode_of_not_markerOk hw hl hunpack fun hm => ?_
    obtain ⟨j, hj, hneq⟩ := hdiff
    obtain ⟨-, hall⟩ := hmarker.1 hm
    exact hneq (hall j hj)

end Sys2Proof.Machine
end

section
/-! PROOFS. What DECODE reads of PIX: bit 0 of the usable channels (spec/42_decoder.md R102; spec/20_memory.md R32).
Putting another buffer with the same channel bits there before the command's loop is the same as putting it there
after it. -/

namespace Sys2Proof.Machine

/-- `s` with another pixel memory. -/
def withPixels (p : Memory) (s : State) : State := { s with pix := p }

/-- Channel `k` is written in both memories, with the same bit 0. -/
def SameChannelBit (p q : Memory) (k : Nat) : Prop :=
  ∃ v w : Byte, p.read (chanAddr k) = some v ∧ q.read (chanAddr k) = some w ∧ v.getLsbD 0 = w.getLsbD 0

/-- ACC takes bit 0 of a channel byte and no other (R102). -/
theorem shiftBit_congr {v w : Byte} (h : v.getLsbD 0 = w.getLsbD 0) (acc : Byte) : shiftBit acc v = shiftBit acc w := by
  have hmask : ∀ u : Byte, u &&& 1 = BitVec.setWidth 8 (BitVec.ofBool (u.getLsbD 0)) := fun _ =>
    BitVec.and_one_eq_setWidth_ofBool_getLsbD
  rw [shiftBit, shiftBit, hmask, hmask, h]

theorem unpackRead_withPixels {p : Memory} {s : State} (h : SameChannelBit s.pix p s.k) :
    unpackRead (withPixels p s) = withPixels p (unpackRead s) := by
  obtain ⟨v, w, hv, hw, hbit⟩ := h
  rw [unpackRead_of_read hv, unpackRead_of_read (s := withPixels p s) hw, shiftBit_congr hbit]
  rfl

/-- Unpacking reads the channels from the cursor on, and of them bit 0 only. -/
theorem unpackSteps_withPixels {p : Memory} (n : Nat) (cs : List Byte) {s : State}
    (h : ∀ k, s.k ≤ k → k < s.k + n → SameChannelBit s.pix p k) :
    unpackSteps n cs (withPixels p s) = ((unpackSteps n cs s).1, withPixels p (unpackSteps n cs s).2) := by
  induction n generalizing cs s with
  | zero => rfl
  | succ n ih =>
    have hread := unpackRead_withPixels (h s.k (Nat.le_refl _) (by omega))
    have hrest : ∀ k, (unpackRead s).k ≤ k → k < (unpackRead s).k + n → SameChannelBit (unpackRead s).pix p k :=
      fun k hlo hhi => by
        rw [unpackRead_k] at hlo hhi
        rw [unpackRead_pix]
        exact h k (by omega) (by omega)
    have hk : (withPixels p (unpackRead s)).k = (unpackRead s).k := rfl
    have hacc : (withPixels p (unpackRead s)).acc = (unpackRead s).acc := rfl
    simp only [unpackSteps, hread, hk, hacc]
    split
    · split
      · rfl
      · exact ih (cs ++ [(unpackRead s).acc]) (s := keepByte (unpackRead s)) hrest
    · exact ih cs hrest

theorem writeText_withPixels (p : Memory) (a : Nat) (vs : List Byte) (s : State) :
    writeText a vs (withPixels p s) = withPixels p (writeText a vs s) := by
  rw [writeText_eq_writeFrom, writeText_eq_writeFrom]
  rfl

/-- Settles O30: the unpacking meets the same bits in both buffers, and nothing else of DECODE reads PIX. -/
theorem decodeDependsOnBitZeroOnly : Obligations.DecodeDependsOnBitZeroOnly := by
  intro s t p hbits h
  have hunpack : unpack (decodeStart (withPixels p s)) =
      ((unpack (decodeStart s)).1, withPixels p (unpack (decodeStart s)).2) :=
    unpackSteps_withPixels (s := decodeStart s) _ [] fun k _ hk =>
      hbits k (by rwa [decodeStart_k, Nat.zero_add] at hk)
  have hvalid : decValid (withPixels p s) = decValid s := rfl
  refine (execDecode_eq (withPixels p s)).trans ?_
  rw [hvalid, hunpack]
  rcases exec_cases h with ⟨_, ⟨⟩, -⟩ | ⟨⟨⟩, -⟩ | ⟨-, hv, rfl⟩ | ⟨-, hv, hm, rfl⟩ | ⟨-, hv, hm, hfits, rfl⟩
  · rw [if_neg (by simp [hv])]
    rfl
  · rw [if_pos hv, if_neg (by simp [hm])]
    rfl
  · rw [if_pos hv, if_pos hm, deliver_eq (s := withPixels p _) hfits, writeText_withPixels]
    rfl

end Sys2Proof.Machine
end

section
/-! PROOFS. The error conditions (spec/60_exceptions.md R121 to R133): when each is raised and in which order, what
`raise` writes, and that every command ends in a STATUS value of its own. -/

namespace Sys2Proof.Machine

/-! ### When the check of ENCODE finds each error -/

/-- The length registers violate R81: the condition of InvalidInput in R121. -/
theorem not_encLengthsOk_iff (s : State) :
    ¬ s.EncLengthsOk ↔ s.pixLen % 4 ≠ 0 ∨ s.cfg.pixMax < s.pixLen ∨ s.cfg.msgMax < s.msgLen := by
  rw [State.EncLengthsOk]
  omega

/-- PIX_LEN violates R101: the condition of InvalidInput in R121. -/
theorem not_decLengthsOk_iff (s : State) : ¬ s.DecLengthsOk ↔ s.pixLen % 4 ≠ 0 ∨ s.cfg.pixMax < s.pixLen := by
  rw [State.DecLengthsOk]
  omega

/-- What the check of ENCODE finds, and under which conditions: these exclude each other (R80, R125). -/
theorem encodeCheck_cases (s : State) :
    (¬ s.EncLengthsOk ∧ encodeCheck s = some .invalidInput) ∨
      (s.EncLengthsOk ∧ s.msgLen = 0 ∧ encodeCheck s = some .emptyMessage) ∨
      (s.EncLengthsOk ∧ s.msgLen ≠ 0 ∧ 8 * (s.msgLen + 7) > 3 * (s.pixLen / 4) ∧
        encodeCheck s = some .capacityExceeded) ∨
      (s.EncLengthsOk ∧ s.msgLen ≠ 0 ∧ ¬ 8 * (s.msgLen + 7) > 3 * (s.pixLen / 4) ∧ encodeCheck s = none) := by
  by_cases hl : s.EncLengthsOk
  · by_cases hz : s.msgLen = 0
    · have hvalid := mt (not_encLengthsOk_iff s).2 (not_not.2 hl)
      exact .inr (.inl ⟨hl, hz, by rw [encodeCheck_eq, if_neg hvalid, if_pos hz]⟩)
    · have hcheck := encodeCheck_of_lengthsOk hl hz
      split_ifs at hcheck with hfit
      · exact .inr (.inr (.inr ⟨hl, hz, Nat.not_lt.2 hfit, hcheck⟩))
      · exact .inr (.inr (.inl ⟨hl, hz, Nat.lt_of_not_le hfit, hcheck⟩))
  · exact .inl ⟨hl, by rw [encodeCheck_eq, if_pos ((not_encLengthsOk_iff s).1 hl)]⟩

/-! ### The STATUS of each command by its conditions -/

/-- ENCODE ends with the error its check finds, and with no other (R80). -/
theorem execEncode_error_iff {s t : State} (h : exec .encode s = .next t) (e : ErrorKind) :
    t.status.code = .error e ↔ encodeCheck s = some e := by
  rw [execEncode_status h]
  cases encodeCheck s <;> simp

/-- DECODE ends with InvalidInput when its validation fails (R101). -/
theorem execDecode_invalidInput_iff {s t : State} (h : exec .decode s = .next t) :
    t.status.code = .error .invalidInput ↔ ¬ s.DecLengthsOk := by
  rw [State.DecLengthsOk, ← decValid_iff]
  rcases execDecode_ends h with ⟨hv, hst, -⟩ | ⟨hv, -, hst, -⟩ | ⟨hv, -, hst, -⟩ <;> simp [hv, hst]

/-- DECODE ends with NoHiddenMessage when its validation passes and the marker check fails (R105). -/
theorem execDecode_noHiddenMessage_iff {s t : State} (h : exec .decode s = .next t) :
    t.status.code = .error .noHiddenMessage ↔ s.DecLengthsOk ∧ ¬ markerOk (unpack (decodeStart s)).1 = true := by
  rw [State.DecLengthsOk, ← decValid_iff]
  rcases execDecode_ends h with ⟨hv, hst, -⟩ | ⟨hv, hm, hst, -⟩ | ⟨hv, hm, hst, -⟩
  · simp [hv, hst]
  · simp [hv, hst, hm]
  · simp [hv, hst, hm]

/-- DECODE of a valid PIX_LEN ends with NoHiddenMessage or OK (R105, R106). -/
theorem execDecode_code_of_decLengthsOk {s t : State} (h : exec .decode s = .next t) (hl : s.DecLengthsOk) :
    t.status.code = .error .noHiddenMessage ∨ t.status.code = .ok := by
  rcases execDecode_ends h with ⟨hv, -⟩ | ⟨-, -, hst, -⟩ | ⟨-, -, hst, -⟩
  · cases hv.symm.trans ((decValid_iff s).2 hl)
  · exact .inl (by rw [hst])
  · exact .inr (by rw [hst])

/-- The marker check fails on fewer than six bytes, or on six that are not the Marker (R105, R124). -/
theorem not_markerOk_iff (cs : List Byte) : ¬ markerOk cs = true ↔ cs.length < 6 ∨ cs.take 6 ≠ marker := by
  rw [markerOk, Bool.and_eq_true, decide_eq_true_eq, decide_eq_true_eq, not_and_or, Nat.not_le]

/-- Once STATUS.OP is known, STATUS is known by its code. -/
theorem status_eq_iff_code_eq {st : Status} {op : StatusOp} (hop : st.op = op) (code : StatusCode) :
    st = { op := op, code := code } ↔ st.code = code := by
  subst hop
  cases st
  simp

/-- STATUS.OP after ENCODE (R12). -/
theorem execEncode_status_op {s t : State} (h : exec .encode s = .next t) : t.status.op = .encode := by
  rw [execEncode_status h]

/-! ### The statements on the conditions -/

/-- Settles O31: the check of ENCODE and the validation of DECODE find it, and a reserved value does nothing else. -/
theorem invalidInputExactly : Obligations.InvalidInputExactly := by
  refine ⟨fun s => ?_, fun s hw => ?_, fun s v rest hs h1 h2 => ?_⟩
  · obtain ⟨t, ht⟩ := execEncode_answers s
    refine ⟨t, ht, ?_⟩
    rw [status_eq_iff_code_eq (execEncode_status_op ht), execEncode_error_iff ht, ← not_encLengthsOk_iff]
    rcases encodeCheck_cases s with ⟨hl, he⟩ | ⟨hl, -, he⟩ | ⟨hl, -, -, he⟩ | ⟨hl, -, -, he⟩ <;> simp [hl, he]
  · obtain ⟨t, ht⟩ := exec_answers hw .decode
    refine ⟨t, ht, ?_⟩
    rw [status_eq_iff_code_eq (execDecode_status_op ht), execDecode_invalidInput_iff ht, not_decLengthsOk_iff]
  · obtain ⟨e, hv⟩ := decodeWord_of_reserved h1 h2
    exact ⟨_, step_of_reserved hs hv, rfl⟩

/-- Settles O32: the conditions of the check exclude each other, and both errors of DECODE are others. -/
theorem encodeOwnErrorsExactly : Obligations.EncodeOwnErrorsExactly := by
  refine ⟨fun s => ?_, fun s t h => ?_⟩
  · obtain ⟨t, ht⟩ := execEncode_answers s
    refine ⟨t, ht, ?_⟩
    rw [execEncode_error_iff ht, execEncode_error_iff ht]
    rcases encodeCheck_cases s with ⟨hl, he⟩ | ⟨hl, hz, he⟩ | ⟨hl, hz, hx, he⟩ | ⟨hl, hz, hx, he⟩
    · simp [hl, he]
    · simp [hl, hz, he]
    · exact ⟨by simp [hz, he], by simp [hl, hz, hx, he]⟩
    · exact ⟨by simp [hz, he], by simp [hx, he]⟩
  · rcases execDecode_ends h with ⟨-, hst, -⟩ | ⟨-, -, hst, -⟩ | ⟨-, -, hst, -⟩ <;> simp [hst]

/-- Settles O33: on written channels the marker check reads the buffer's candidate string; ENCODE checks no marker. -/
theorem noHiddenMessageExactly : Obligations.NoHiddenMessageExactly := by
  refine ⟨fun s hw hchan => ?_, fun s t h => ?_⟩
  · obtain ⟨t, ht⟩ := exec_answers hw .decode
    refine ⟨t, ht, ?_⟩
    rw [execDecode_noHiddenMessage_iff ht, unpack_eq_candidate_of_written hchan, not_markerOk_iff]
  · rw [Ne, execEncode_error_iff h]
    rcases encodeCheck_cases s with ⟨-, he⟩ | ⟨-, -, he⟩ | ⟨-, -, -, he⟩ | ⟨-, -, -, he⟩ <;> simp [he]

/-- Settles O34: ENCODE's code is what its check finds first, and DECODE validates before it unpacks. -/
theorem errorPriority : Obligations.ErrorPriority := by
  refine ⟨fun s => ?_, fun s hw => ?_⟩
  · obtain ⟨t, ht⟩ := execEncode_answers s
    refine ⟨t, ht, execEncode_status_op ht, ?_⟩
    rw [execEncode_status ht, encodeCheck_eq]
    split_ifs <;> rfl
  · obtain ⟨t, ht⟩ := exec_answers hw .decode
    refine ⟨t, ht, execDecode_status_op ht, ?_⟩
    by_cases hl : s.DecLengthsOk
    · rw [if_neg (mt (not_decLengthsOk_iff s).2 (not_not.2 hl))]
      exact execDecode_code_of_decLengthsOk ht hl
    · rw [if_pos ((not_decLengthsOk_iff s).1 hl)]
      exact (execDecode_invalidInput_iff ht).2 hl

/-! ### What a failed command writes -/

/-- An ENCODE that ends with an error changes only STATUS and K (R88, R126). -/
theorem execEncode_eq_raise_of_error {s t : State} {e : ErrorKind} (h : exec .encode s = .next t)
    (herr : t.status.code = .error e) : t = raise .encode e (encodeStart s) := by
  rcases exec_cases h with ⟨_, -, -, rfl⟩ | ⟨-, -, rfl⟩ | ⟨⟨⟩, -⟩ | ⟨⟨⟩, -⟩ | ⟨⟨⟩, -⟩
  · cases herr
    rfl
  · cases herr

/-- A DECODE that ends with an error changes, of what a host can see, only STATUS and OUT_LEN (R107, R126). -/
theorem execDecode_visible_of_error {s t : State} {e : ErrorKind} (h : exec .decode s = .next t)
    (herr : t.status.code = .error e) : t.visible = (raise .decode e s).visible := by
  rcases exec_cases h with ⟨_, ⟨⟩, -⟩ | ⟨⟨⟩, -⟩ | ⟨-, -, rfl⟩ | ⟨-, -, -, rfl⟩ | ⟨-, -, -, -, rfl⟩
  · cases herr
    rfl
  · cases herr
    rw [unpack_state]
    rfl
  · cases herr

/-- Settles O35: `raise` writes STATUS, in a DECODE also OUT_LEN, and both commands end with it when they fail. -/
theorem raiseWritesStatusOnly : Obligations.RaiseWritesStatusOnly :=
  ⟨fun _ _ => rfl, fun _ _ => rfl, fun _ _ _ h herr => by rw [execEncode_eq_raise_of_error h herr]; rfl,
    fun _ _ _ => execDecode_visible_of_error⟩

/-! ### Every command ends -/

/-- The STATUS words of ENCODE (R55). -/
theorem execEncode_word {s t : State} (h : exec .encode s = .next t) :
    t.status.word ∈ ([0x10, 0x11, 0x12, 0x13] : List (BitVec 6)) := by
  rw [execEncode_status h]
  rcases encodeCheck_cases s with ⟨-, he⟩ | ⟨-, -, he⟩ | ⟨-, -, -, he⟩ | ⟨-, -, -, he⟩ <;> rw [he] <;> decide

/-- The STATUS words of DECODE (R55). -/
theorem execDecode_word {s t : State} (h : exec .decode s = .next t) :
    t.status.word ∈ ([0x20, 0x21, 0x24] : List (BitVec 6)) := by
  rcases execDecode_ends h with ⟨-, hst, -⟩ | ⟨-, -, hst, -⟩ | ⟨-, -, hst, -⟩ <;> rw [hst] <;> decide

/-- A command ends in one of the STATUS values of R55, whatever STATUS held before. -/
theorem exec_status_legal {i : Instr} {s t : State} (h : exec i s = .next t) : t.status.Legal := by
  cases i with
  | encode =>
    have hsub : ([0x10, 0x11, 0x12, 0x13] : List (BitVec 6)) ⊆ legalStatusWords := by decide
    exact hsub (execEncode_word h)
  | decode =>
    have hsub : ([0x20, 0x21, 0x24] : List (BitVec 6)) ⊆ legalStatusWords := by decide
    exact hsub (execDecode_word h)

/-- Settles O36: ENCODE always answers, DECODE under R5, and a reserved value writes STATUS alone. -/
theorem everyCommandEnds : Obligations.EveryCommandEnds := by
  refine ⟨fun s => ?_, fun s hw => ?_, fun s v rest hw hs => ?_⟩
  · obtain ⟨t, ht⟩ := execEncode_answers s
    exact ⟨t, ht, execEncode_word ht⟩
  · obtain ⟨t, ht⟩ := exec_answers hw .decode
    exact ⟨t, ht, execDecode_word ht⟩
  · cases hv : decodeWord v with
    | ok i =>
      obtain ⟨t, ht⟩ := exec_answers (s := { s with script := rest }) hw i
      exact ⟨t, (step_of_command hs hv).trans ht, exec_status_legal ht⟩
    | error e =>
      have hlegal : ({ op := .illegal, code := .error .invalidInput } : Status).Legal := by decide
      exact ⟨_, step_of_reserved hs hv, hlegal⟩

/-! ### The idle block -/

/-- Settles O48: a step with no access pending is idle. -/
theorem idleBlockHoldsItsState : Obligations.IdleBlockHoldsItsState := by
  intro s hs
  rcases step_cases s with ⟨-, h⟩ | ⟨_, _, hs', -⟩
  · exact h
  · cases hs.symm.trans hs'

end Sys2Proof.Machine
end

section
/-! PROOFS. The reset event, the commands straight after it, and bytes not written since reset: a host read of one draws
a free value, and a command whose operand bytes are written draws none (spec/70_reset_and_hazards.md R140 to R145). -/

namespace Sys2Proof.Machine

/-! ### ENCODE on written operands -/

/-- A pack step with its channel and its message written draws no free value (R144, R145). -/
theorem packStep_freeReads_of_written {s : State} {m : List Byte} (hm : s.MessageIs m) {v : Byte}
    (hv : s.pix.read (chanAddr s.k) = some v) : (packStep s).freeReads = s.freeReads := by
  obtain ⟨hlen, hbytes⟩ := hm
  simp only [packStep, readByte_of_read (sp := .pix) hv, readFrameBit_of_message hlen hbytes, writePix_freeReads]

/-- Pack steps whose channels and message are written draw no free value: no step writes a channel of a later one. -/
theorem packSteps_freeReads_of_written {s : State} {m : List Byte} (hm : s.MessageIs m) {n : Nat}
    (hw : ∀ i, i < n → ∃ v, s.pix.read (chanAddr (s.k + i)) = some v) :
    (packSteps n s).freeReads = s.freeReads := by
  induction n with
  | zero => rfl
  | succ n ih =>
    obtain ⟨v, hv⟩ := hw n (Nat.lt_succ_self n)
    have hcursor : (packSteps n s).pix.read (chanAddr (packSteps n s).k) = some v := by
      rw [packSteps_k, packSteps_read_other n s _ fun j _ hj => chanAddr_strictMono.injective.ne (by omega), hv]
    rw [packSteps_succ, packStep_freeReads_of_written (packSteps_messageIs hm n) hcursor]
    exact ih fun i hi => hw i (Nat.lt_succ_of_lt hi)

/-- ENCODE of a written message into written channels draws no free value: a failed check has read no byte. -/
theorem execEncode_freeReads_of_written {s t : State} {m : List Byte} (hm : s.MessageIs m)
    (hw : ChannelsWritten s.pix (nbits m.length)) (h : exec .encode s = .next t) : t.freeReads = s.freeReads := by
  rcases exec_cases h with ⟨e, -, -, rfl⟩ | ⟨-, -, rfl⟩ | ⟨⟨⟩, -⟩ | ⟨⟨⟩, -⟩ | ⟨⟨⟩, -⟩
  · rfl
  · have hlen : s.msgLen = m.length := hm.1
    rw [encodeDone_freeReads, hlen, packSteps_freeReads_of_written (s := encodeStart s) hm, encodeStart_freeReads]
    simpa [ChannelsWritten] using hw

/-! ### DECODE on written operands -/

/-- Unpacking written channels draws no free value (R102, R145). -/
theorem unpackSteps_freeReads_of_written (n : Nat) (cs : List Byte) {s : State}
    (hw : ∀ i, i < n → ∃ v, s.pix.read (chanAddr (s.k + i)) = some v) :
    (unpackSteps n cs s).2.freeReads = s.freeReads := by
  induction n generalizing cs s with
  | zero => rfl
  | succ n ih =>
    have hread : (unpackRead s).freeReads = s.freeReads := by
      obtain ⟨v, hv⟩ := hw 0 (Nat.succ_pos n)
      rw [unpackRead_of_read hv]
    have hrest : ∀ i, i < n → ∃ v, s.pix.read (chanAddr (s.k + 1 + i)) = some v := fun i hi => by
      rw [Nat.add_assoc, Nat.add_comm 1 i]
      exact hw (i + 1) (Nat.succ_lt_succ hi)
    by_cases hk : (s.k + 1) % 8 = 0
    · by_cases hz : (unpackRead s).acc = 0
      · rw [unpackSteps_zero hk hz, hread]
      · rw [unpackSteps_keep hk hz, ih _ (by simpa using hrest), keepByte_freeReads, hread]
    · rw [unpackSteps_partial hk, ih _ (by simpa using hrest), hread]

/-- DECODE of written channels draws no free value: it reads no other byte. -/
theorem execDecode_freeReads_of_written {s t : State} (hw : ChannelsWritten s.pix (capBits (pixelCount s.pixLen)))
    (h : exec .decode s = .next t) : t.freeReads = s.freeReads := by
  have hunpack : (unpack (decodeStart s)).2.freeReads = s.freeReads :=
    unpackSteps_freeReads_of_written _ [] (s := decodeStart s) (by simpa [ChannelsWritten] using hw)
  rcases exec_cases h with ⟨_, ⟨⟩, -⟩ | ⟨⟨⟩, -⟩ | ⟨-, -, rfl⟩ | ⟨-, -, -, rfl⟩ | ⟨-, -, -, -, rfl⟩
  · rfl
  · exact hunpack
  · rw [decodeDone_freeReads, writeText_state]
    exact hunpack

/-- Settles O50: neither the pack steps nor the unpacking read a byte that is not written. -/
theorem writtenOperandsDrawNoFreeValue : Obligations.WrittenOperandsDrawNoFreeValue :=
  ⟨fun _ _ _ => execEncode_freeReads_of_written, fun _ _ => execDecode_freeReads_of_written⟩

/-! ### The reset event -/

theorem step_of_reset {s : State} {rest : List HostAccess} (hs : s.script = .reset :: rest) :
    step s = .next (resetEvent { s with script := rest }) :=
  step_of_script hs

/-- Settles O7: the step is the reset event, which keeps the parameters and what the model holds for the host. -/
theorem resetEventClearsRegisters : Obligations.ResetEventClearsRegisters := fun _ _ hs =>
  ⟨_, step_of_reset hs, rfl, rfl, rfl, rfl, rfl, rfl, rfl, rfl, resetEvent_read _⟩

/-! ### Commands straight after reset -/

/-- ENCODE with both lengths 0 ends with EmptyMessage before it reads any byte (R82, R141). -/
theorem execEncode_of_lengths_zero {s : State} (hp : s.pixLen = 0) (hm : s.msgLen = 0) :
    exec .encode s = .next (raise .encode .emptyMessage (encodeStart s)) := by
  have hcheck : encodeCheck s = some .emptyMessage := by simp [encodeCheck_eq, hp, hm]
  show execEncode s = _
  rw [execEncode_eq, hcheck]

/-- DECODE with PIX_LEN 0 has no channel to read and ends with NoHiddenMessage (R105, R141). -/
theorem execDecode_of_pixLen_zero {s : State} (hp : s.pixLen = 0) :
    exec .decode s = .next (raise .decode .noHiddenMessage (decodeStart s)) := by
  have hvalid : decValid s = true := by simp [decValid_iff, hp]
  have hunpack : unpack (decodeStart s) = ([], decodeStart s) := by
    rw [unpack, decodeStart_pixLen, hp]
    rfl
  have hmarker : markerOk [] = false := by decide
  rcases execDecode_cases s with ⟨hv, -⟩ | ⟨-, -, h⟩ | ⟨-, hm, -⟩
  · cases hv.symm.trans hvalid
  · rwa [hunpack] at h
  · rw [hunpack] at hm
    cases hm.symm.trans hmarker

/-- Settles O8: the lengths are 0 at reset, so ENCODE stops at its checks and DECODE finds no channel. -/
theorem commandsStraightAfterReset : Obligations.CommandsStraightAfterReset := by
  intro c p m o n k clen acc mok s
  exact ⟨⟨_, execEncode_of_lengths_zero rfl rfl, Status.word_encode_empty, rfl, rfl⟩,
    ⟨_, execDecode_of_pixLen_zero rfl, Status.word_decode_none, rfl, rfl, rfl⟩⟩

/-! ### Host reads of unwritten bytes -/

/-- A host read of a byte not written since reset appends the next free value to the answers and counts it (R145). -/
theorem step_of_readByte_unwritten {s : State} {sp : Space} {a : Nat} {rest : List HostAccess}
    (hs : s.script = .readByte sp a :: rest) (ha : a < s.cfg.size sp) (hu : (s.mem sp).read a = none) :
    step s = .next { s with script := rest, answers := s.answers ++ [(Config.freeByte s.freeReads).toNat],
                            freeReads := s.freeReads + 1 } := by
  rw [step_of_readByte hs ha, readByte_of_unwritten (s := { s with script := rest }) hu]
  rfl

/-- Settles O49: after a reset event no byte is written, so the read after it is one of an unwritten byte too. -/
theorem unwrittenByteReadsAsFreeValue : Obligations.UnwrittenByteReadsAsFreeValue := by
  refine ⟨fun _ _ _ _ => step_of_readByte_unwritten, fun s sp a rest hs ha => ?_⟩
  exact ⟨_, _, step_of_reset hs, step_of_readByte_unwritten rfl ha (resetEvent_read _ sp a), rfl⟩

end Sys2Proof.Machine
end
